-- ==== Sys2Proof/Word.lean ====
section
/-! DEFINITION. The widths of the block's values (00_scope.md rules R8 and R9: every value is unsigned, bit 0 is the
least significant) and the one arithmetic primitive every clamp uses (rule R10). -/

namespace Sys2Proof

/-- One sample, one ROM entry, one table index or one read address: 8 bits (`SAMPLE_BITS`, `IDX_BITS`; rules R30, R58). -/
abbrev Byte := BitVec 8

/-- A command word or a read-port word: 32 bits (rules R50 and R33). -/
abbrev Word := BitVec 32

/-- The opcode field OP of a command word (rule R50). -/
abbrev Opcode := BitVec 4

/-- The payload field PAY of a command word (rules R50 and R51). -/
abbrev Payload := BitVec 28

/-- FREQ, in millihertz (`FREQ_BITS`, rule R16). -/
abbrev FreqBits := BitVec 25

/-- SAMPLE_RATE, in hertz (`SR_BITS`, rule R17). -/
abbrev RateBits := BitVec 20

/-- PHASE_ACC and PHASE_INC, in 1/65536 cycle (`ACC_BITS`, `INC_BITS`; rules R18 and R19). -/
abbrev PhaseBits := BitVec 16

/-- A waveform code and bank number (rules R20 and R55). -/
abbrev WaveCode := BitVec 2

/-- A ROM address (rule R30). -/
abbrev RomAddr := BitVec 10

/-- `clamp(x, lo, hi)` of rule R10: `lo` below the range, `hi` above it, `x` inside it. -/
def clamp (x lo hi : Nat) : Nat :=
  if x < lo then lo else if hi < x then hi else x

end Sys2Proof
end

