-- ==== Sys2Proof/Config.lean ====
section
/-! DEFINITION. The implementation parameters of 00_scope.md rule R8 and the free values. A parameter with a value there
has that value here; one marked OPEN there, and every draw the spec leaves free, is an `opaque` constant with no body, so
that no proof can depend on what it is. -/

namespace Sys2Proof

/-- What the sink does with one SINKWR (43_output_sink.md rule R97): it answers `ok`; or it answers `fail`, and then its
`current_value` is a draw of the old value (`failKept`) or of the clamped new one (`failStored`). -/
inductive SinkAnswer where
  | ok
  | failKept
  | failStored
deriving DecidableEq, Repr, Inhabited

/-- The order in which a byte-serial carrier sends the four bytes of a word (`BUS_BYTE_ORDER`, rule R36). -/
inductive ByteOrder where
  | leastFirst
  | mostFirst
deriving DecidableEq, Repr, Inhabited

/-- What the trigger does with a tick it cannot deliver on time (`TICK_OVERRUN`, rule R8): it delivers it late, it delivers
one tick for the two, or it delivers none for it. -/
inductive TickOverrun where
  | delay
  | merge
  | drop
deriving DecidableEq, Repr, Inhabited

namespace Config

/-- `F_MIN_MHZ` (rule R8): 0.1 Hz. -/
abbrev fMinMhz : Nat := 100

/-- `F_MAX_MHZ` (rule R8): 20 000 Hz. -/
abbrev fMaxMhz : Nat := 20000000

/-- `SR_MIN` (rule R8, decision D3). -/
abbrev srMin : Nat := 1

/-- `SR_MAX` (rule R8, decision D3). -/
abbrev srMax : Nat := 1000000

/-- `SR_RESET` (rules R8 and R17). -/
abbrev srReset : RateBits := 40000#20

/-- `WAVE_RESET`: sine, code 0 (rules R8 and R20). -/
abbrev waveReset : WaveCode := 0#2

/-- `FREQ_RESET_MHZ`: 1000 Hz (rules R8 and R16, decision D5). -/
abbrev freqResetMhz : FreqBits := 1000000#25

/-- `HI_MAX`, the sink's native maximum (rules R8 and R96). -/
abbrev hiMax : Nat := 255

/-- `SCALER_BITS`, the width of the scaler's datapath (rules R8 and R72). -/
abbrev scalerBits : Nat := 64

/-- `CHANNEL_SEL`, OPEN: passed to the sink unread (rule R100). DESIGN CHOICE, safe (log 11): held as a number. -/
opaque channelSel : Nat

/-- `TICK_TIME_UNIT`, OPEN (rules R8 and R114). DESIGN CHOICE, safe (log 11): held as the number of units in a second. -/
opaque tickUnitsPerSecond : Nat

/-- `BUS_BYTE_ORDER`, OPEN (rule R36): the byte order of a byte-serial carrier, outside the block. -/
opaque busByteOrder : ByteOrder

/-- `TICK_OVERRUN`, OPEN (rule R8, decision D17): the trigger's policy, outside the block. -/
opaque tickOverrun : TickOverrun

/-- The sink's answer to a SINKWR that no scripted answer meets: a free draw on every write (rules R97 and R101), taken at
the draw counter. -/
opaque freeSinkAnswer : Nat → SinkAnswer

/-- The scaler's quotient in the states with SAMPLE_RATE = 0: a division by zero, which the spec says cannot occur (rule
R66) and no run reaches. A free value of the frequency (log 16). -/
opaque zeroRateQuotient : FreqBits → Nat

/-- The agent that moves when several have a transaction pending and nothing names one: a free choice of the schedule
(rule R42), taken at the draw counter as an index into the agents that are ready. -/
opaque freePick : Nat → Nat

end Config
end Sys2Proof
end

