-- ==== Sys2Proof/Syntax.lean ====
section
/-! DEFINITION. The transactions as they are presented on the block's input channels (30_encoding.md rule R49), and the
operations they decode to, one constructor per row of spec/opcode_table.json. -/

namespace Sys2Proof

/-- The four input channels (rule R49). -/
inductive Channel where
  | cmd
  | rd
  | tick
  | rst
deriving DecidableEq, Repr

/-- One raw input transaction: what stands on a channel when the block accepts it (rules R50, R58, R59 and R60). -/
inductive Transaction where
  /-- A 32-bit command word from the HOST (rule R50). -/
  | cmd (word : Word)
  /-- An 8-bit read address from the HOST (rule R58). -/
  | rd (addr : Byte)
  /-- The TRIGGER's strobe (rule R59). -/
  | tick
  /-- The platform's reset strobe (rule R60). -/
  | rst
deriving DecidableEq, Repr

/-- The operations of the block (rule R63 for the five that a command word spells). -/
inductive Instr where
  /-- SET_FREQ: the requested frequency in millihertz (40_frequency.md rule R69). -/
  | setFreq (pay : Payload)
  /-- SET_WAVE: a waveform code (42_engine.md rule R91). -/
  | setWave (pay : Payload)
  /-- START: a sample rate in hertz, 0 for none supplied (42_engine.md rule R89). -/
  | start (pay : Payload)
  /-- STOP (42_engine.md rule R90). -/
  | stop
  /-- ILLEGAL: a command word that spells no command (60_exceptions.md rule R105). -/
  | illegal (word : Word)
  /-- RD: a read address (42_engine.md rule R92). -/
  | rd (addr : Byte)
  /-- TICK (42_engine.md rule R93). -/
  | tick
  /-- RST (70_reset_and_hazards.md rule R120). -/
  | rst
deriving DecidableEq, Repr

/-- The channel a raw transaction stands on (rule R49). -/
def Transaction.channel : Transaction → Channel
  | .cmd _ => .cmd
  | .rd _ => .rd
  | .tick => .tick
  | .rst => .rst

/-- The channel of an operation, the "channel" of its row in spec/opcode_table.json. -/
def Instr.channel : Instr → Channel
  | .setFreq _ => .cmd
  | .setWave _ => .cmd
  | .start _ => .cmd
  | .stop => .cmd
  | .illegal _ => .cmd
  | .rd _ => .rd
  | .tick => .tick
  | .rst => .rst

end Sys2Proof
end

