-- ==== Sys2Proof/Machine/State.lean ====
section
/-! DEFINITION. The state: the block's registers (10_state.md rule R15), the external sink (43_output_sink.md rule R96), what
the agents present and have not yet had performed (20_memory.md rules R41 and R42), and the observation of the run
(70_reset_and_hazards.md rule R131). Plain data throughout. The block has no writable memory: the waveform ROM is a constant
(10_state.md rule R26) and stands in Machine/Rom.lean. -/

namespace Sys2Proof.Machine

/-- The two states of the sample-fetch machine (rules R21 and R87). -/
inductive RunState where
  | stopped
  | running
deriving DecidableEq, Repr

/-- The error events of rule R102. ILLEGAL's event carries the word, as `raise IllegalCommand(word)` of rule R11 does. -/
inductive Event where
  | valueClamped
  | unknownWaveform
  | deviceWriteFailure
  | illegalCommand (word : Word)
deriving DecidableEq, Repr

/-- The response bit of a SINKWR (rule R61). -/
inductive SinkResp where
  | ok
  | fail
deriving DecidableEq, Repr

/-- One entry of the observation of a run (rule R131), and the value a GetValue returned (rule R99). -/
inductive Obs where
  /-- A SINKWR: the sample sent and the sink's response. -/
  | sinkwr (v : Byte) (resp : SinkResp)
  /-- An RD: its address and the word returned. -/
  | reply (addr : Byte) (word : Word)
  /-- An error event that was met. -/
  | event (e : Event)
  /-- A GetValue: the sink's value, or no value before the first write. -/
  | sinkRead (v : Option Byte)
deriving DecidableEq, Repr

/-- What the host asks of the sink directly (rules R98 and R99): no transaction of the block, and no encoding in it. -/
inductive SinkOp where
  | setAmplitude (thousandths : Nat)
  | getValue
deriving DecidableEq, Repr

/-- What the HOST can issue (rules R113 and R132): a command, a read, or an operation of the sink. Never a TICK. -/
inductive HostRequest where
  | cmd (word : Word)
  | rd (addr : Byte)
  | sink (op : SinkOp)
deriving DecidableEq, Repr

/-- The agents whose transactions the block performs (rules R7 and R132). The SINK only answers. -/
inductive Agent where
  | host
  | trigger
  | platform
deriving DecidableEq, Repr

/-- The registers of rule R15, all of the block's state. -/
structure Block where
  /-- FREQ, millihertz (rule R16). -/
  freq : FreqBits
  /-- SAMPLE_RATE, hertz (rule R17). -/
  sampleRate : RateBits
  /-- PHASE_ACC (rule R18). -/
  phaseAcc : PhaseBits
  /-- PHASE_INC (rule R19). -/
  phaseInc : PhaseBits
  /-- WAVE_SEL (rule R20). -/
  waveSel : WaveCode
  /-- RUN (rule R21). -/
  run : RunState
  /-- CMD_ERR (rule R23). -/
  cmdErr : Bool
  /-- SINK_FAULT (rule R24). -/
  sinkFault : Bool
deriving DecidableEq, Repr

/-- The external sink of rule R96: its range, the last value written, and the values it forwarded to the physical channel,
oldest first (rule R97). -/
structure Sink where
  lo : Byte
  hi : Byte
  currentValue : Option Byte
  emitted : List Byte
deriving DecidableEq, Repr

/-- What the agents present. The block itself holds no pending transaction (rule R27): this is the agents' side, the
MODEL's own (log 1), and `order`, `sinkAnswers` and `draws` settle the choices the spec leaves free (logs 2 and 3). -/
structure Env where
  /-- The HOST's requests not yet performed, oldest first. -/
  host : List HostRequest
  /-- How many TICK strobes the TRIGGER has presented that are not yet performed. -/
  ticks : Nat
  /-- How many RST strobes the platform has presented that are not yet performed. -/
  resets : Nat
  /-- Which agents move next, the first one first. -/
  order : List Agent
  /-- What the SINK will do with the next SINKWRs. -/
  sinkAnswers : List SinkAnswer
  /-- The counter that free draws are taken at. -/
  draws : Nat
deriving DecidableEq, Repr

structure State where
  block : Block
  sink : Sink
  env : Env
  /-- The observation of the run, oldest entry first; nothing clears it (rules R102, R105 and R131). -/
  trace : List Obs
deriving DecidableEq, Repr

/-- Why the machine could stop. It has no constructor: no transaction of the block stops it (rule R108: no traps; rule
R131: the block never halts of its own accord). The events that the spec calls faults of a run (rules R105 and R106) are
recorded in the trace and the machine goes on. DEDUCED, safe (log 9). -/
inductive Fault where
deriving DecidableEq, Repr

/-- Why an instruction has no meaning. -/
inductive Refusal where
  /-- Raised only by a refused arm of `exec`, for an instruction that has no meaning yet. Safe: nothing is claimed of it. -/
  | notModelled (mnemonic : String)
deriving DecidableEq, Repr

/-- The registers after RST and power-up (70_reset_and_hazards.md rules R120 and R121). -/
def Block.reset : Block where
  freq := Config.freqResetMhz
  sampleRate := Config.srReset
  phaseAcc := 0#16
  phaseInc := 1638#16
  waveSel := Config.waveReset
  run := .stopped
  cmdErr := false
  sinkFault := false

/-- The sink at platform reset (rules R96 and R121). -/
def Sink.reset : Sink where
  lo := 0#8
  hi := BitVec.ofNat 8 Config.hiMax
  currentValue := none
  emitted := []

/-- Nothing presented, no choice made. DESIGN CHOICE (log 21). -/
def Env.reset : Env where
  host := []
  ticks := 0
  resets := 0
  order := []
  sinkAnswers := []
  draws := 0

/-- The machine right after reset. -/
def State.reset : State where
  block := .reset
  sink := .reset
  env := .reset
  trace := []

end Sys2Proof.Machine
end

