-- ==== Sys2Proof/Machine/Flags.lean ====
section
/-! DEFINITION. The writers of the eight registers, the STATUS word (10_state.md rule R25), the outputs to the trigger and the
sink (rules R22 and R100), and which flag an error event sets (60_exceptions.md rule R102). -/

namespace Sys2Proof.Machine

/-! ## Register writers: each replaces one register as a whole (20_memory.md rule R38) -/

def Block.setFreq (b : Block) (v : FreqBits) : Block := { b with freq := v }
def Block.setSampleRate (b : Block) (v : RateBits) : Block := { b with sampleRate := v }
def Block.setPhaseAcc (b : Block) (v : PhaseBits) : Block := { b with phaseAcc := v }
def Block.setPhaseInc (b : Block) (v : PhaseBits) : Block := { b with phaseInc := v }
def Block.setWaveSel (b : Block) (v : WaveCode) : Block := { b with waveSel := v }
def Block.setRun (b : Block) (v : RunState) : Block := { b with run := v }
def Block.setCmdErr (b : Block) (v : Bool) : Block := { b with cmdErr := v }
def Block.setSinkFault (b : Block) (v : Bool) : Block := { b with sinkFault := v }

/-! ## Views of the flags -/

/-- RUN as a bit: 0 = Stopped, 1 = Running (rule R21). -/
def RunState.bit : RunState → BitVec 1
  | .stopped => 0#1
  | .running => 1#1

/-- STATUS (rule R25): `zext_32({WAVE_SEL, 0b0, SINK_FAULT, CMD_ERR, RUN})`, a view with no storage of its own. -/
def Block.status (b : Block) : Word :=
  (b.waveSel ++ 0#1 ++ BitVec.ofBool b.sinkFault ++ BitVec.ofBool b.cmdErr ++ b.run.bit).setWidth 32

/-- TRIG_ARM equals RUN at all times (rule R22). -/
def Block.trigArm (b : Block) : Bool := decide (b.run = .running)

/-- TRIG_RATE equals SAMPLE_RATE at all times (rule R22). -/
def Block.trigRate (b : Block) : RateBits := b.sampleRate

/-- The period the trigger derives, `1 / TRIG_RATE` in the platform's time unit (60_exceptions.md rule R114, 90_conflicts.md
C3). The model has no time and no step reads this. -/
def Block.trigPeriod (b : Block) : Rat := (Config.tickUnitsPerSecond : Rat) / (b.trigRate.toNat : Rat)

/-- The level outputs of the block (rules R22 and R49) with the channel selector it passes to the sink (rule R100). -/
structure Outputs where
  trigArm : Bool
  trigRate : RateBits
  channelSel : Nat
deriving DecidableEq, Repr

def Block.outputs (b : Block) : Outputs := ⟨b.trigArm, b.trigRate, Config.channelSel⟩

/-! ## Error events -/

/-- The code of an event (rule R102; code 0 is "none"). -/
def Event.code : Event → Nat
  | .valueClamped => 1
  | .unknownWaveform => 2
  | .deviceWriteFailure => 3
  | .illegalCommand _ => 4

/-- An event that a model records as a fault of the run (rules R105 and R106). -/
def Event.isFault (e : Event) : Bool := 3 ≤ e.code

/-- What an event records in block state: codes 3 and 4 set their sticky flag, the silent ones nothing (rule R102). -/
def Block.flagEvent (b : Block) : Event → Block
  | .valueClamped => b
  | .unknownWaveform => b
  | .deviceWriteFailure => b.setSinkFault true
  | .illegalCommand _ => b.setCmdErr true

end Sys2Proof.Machine
end

