-- ==== Sys2Proof/Machine/Operands.lean ====
section
/-! DEFINITION. How an operand becomes the value written (30_encoding.md rule R51): the clamps of SET_FREQ and START and the
waveform fallback of SET_WAVE, each with the condition under which its event is noted. -/

namespace Sys2Proof.Machine

/-- `ClampFreq` on a payload, written to 25 bits (rules R68 and R69). -/
def clampFreq (p : Payload) : FreqBits :=
  BitVec.ofNat 25 (clamp p.toNat Config.fMinMhz Config.fMaxMhz)

/-- `ClampFreq(p) ≠ p`: ValueClamped is noted (rule R68). -/
def freqIsClamped (p : Payload) : Bool :=
  clamp p.toNat Config.fMinMhz Config.fMaxMhz != p.toNat

/-- The clamp of SetSampleRate, written to 20 bits (rule R70). -/
def clampRate (p : Payload) : RateBits :=
  BitVec.ofNat 20 (clamp p.toNat Config.srMin Config.srMax)

/-- The rate's clamp changed the operand: ValueClamped is noted (rule R70). -/
def rateIsClamped (p : Payload) : Bool :=
  clamp p.toNat Config.srMin Config.srMax != p.toNat

/-- The payload names one of the four waveforms (rule R55). -/
def isWaveCode (p : Payload) : Bool := p.toNat ≤ 3

/-- `ResolveWave` (41_waveform_rom.md rule R85): the code itself, or sine. -/
def resolveWave (p : Payload) : WaveCode :=
  if isWaveCode p then p.setWidth 2 else 0#2

/-- START was given a sample rate (rule R56). -/
def suppliesRate (p : Payload) : Bool := p != 0#28

end Sys2Proof.Machine
end

