-- ==== Sys2Proof/Machine/Rom.lean ====
section
/-! DEFINITION. The waveform ROM (41_waveform_rom.md rules R78 to R84): four tables of 256 samples, constant, read at the
address `{sel, idx}` (20_memory.md rule R31). -/

namespace Sys2Proof.Machine

/-- Rule R80, entries 0 to 63. -/
def sineQuarter0 : List Byte :=
  [128, 131, 134, 137, 140, 144, 147, 150, 153, 156, 159, 162, 165, 168, 171, 174,
   177, 179, 182, 185, 188, 191, 193, 196, 199, 201, 204, 206, 209, 211, 213, 216,
   218, 220, 222, 224, 226, 228, 230, 232, 234, 235, 237, 239, 240, 241, 243, 244,
   245, 246, 248, 249, 250, 250, 251, 252, 253, 253, 254, 254, 254, 255, 255, 255]

/-- Rule R80, entries 64 to 127. -/
def sineQuarter1 : List Byte :=
  [255, 255, 255, 255, 254, 254, 254, 253, 253, 252, 251, 250, 250, 249, 248, 246,
   245, 244, 243, 241, 240, 239, 237, 235, 234, 232, 230, 228, 226, 224, 222, 220,
   218, 216, 213, 211, 209, 206, 204, 201, 199, 196, 193, 191, 188, 185, 182, 179,
   177, 174, 171, 168, 165, 162, 159, 156, 153, 150, 147, 144, 140, 137, 134, 131]

/-- Rule R80, entries 128 to 191. -/
def sineQuarter2 : List Byte :=
  [128, 125, 122, 119, 116, 112, 109, 106, 103, 100, 97, 94, 91, 88, 85, 82,
   79, 77, 74, 71, 68, 65, 63, 60, 57, 55, 52, 50, 47, 45, 43, 40,
   38, 36, 34, 32, 30, 28, 26, 24, 22, 21, 19, 17, 16, 15, 13, 12,
   11, 10, 8, 7, 6, 6, 5, 4, 3, 3, 2, 2, 2, 1, 1, 1]

/-- Rule R80, entries 192 to 255. -/
def sineQuarter3 : List Byte :=
  [1, 1, 1, 1, 2, 2, 2, 3, 3, 4, 5, 6, 6, 7, 8, 10,
   11, 12, 13, 15, 16, 17, 19, 21, 22, 24, 26, 28, 30, 32, 34, 36,
   38, 40, 43, 45, 47, 50, 52, 55, 57, 60, 63, 65, 68, 71, 74, 77,
   79, 82, 85, 88, 91, 94, 97, 100, 103, 106, 109, 112, 116, 119, 122, 125]

/-- The sine table, code 0 (rule R80). -/
def sineTable : List Byte := sineQuarter0 ++ sineQuarter1 ++ sineQuarter2 ++ sineQuarter3

/-- The square table, code 1 (rule R81). -/
def squareTable : List Byte := List.replicate 128 0#8 ++ List.replicate 128 255#8

/-- The sawtooth table, code 2 (rule R82). -/
def sawtoothTable : List Byte := (List.range 256).map (BitVec.ofNat 8)

/-- The triangle table, code 3 (rule R83): `i` below 128, `383 - i` from 128 on. -/
def triangleTable : List Byte :=
  (List.range 256).map fun i => BitVec.ofNat 8 (if i < 128 then i else 383 - i)

/-- The table of a code (rules R78 and R84). -/
def table (sel : WaveCode) : List Byte :=
  if sel = 0#2 then sineTable
  else if sel = 1#2 then squareTable
  else if sel = 2#2 then sawtoothTable
  else triangleTable

/-- The ROM as one space of 1024 addresses: the four banks in the order of their codes (rules R30 and R31). -/
def rom : List Byte := table 0#2 ++ table 1#2 ++ table 2#2 ++ table 3#2

/-- `addr = {sel[1:0], idx[7:0]}` (rule R31). -/
def romAddr (sel : WaveCode) (idx : Byte) : RomAddr := sel ++ idx

/-- The byte at a ROM address. Every address is populated (rule R31), so the default is never read. -/
def romByte (a : RomAddr) : Byte := rom.getD a.toNat 0#8

/-- RomRead (rule R86). -/
def romRead (sel : WaveCode) (idx : Byte) : Byte := romByte (romAddr sel idx)

end Sys2Proof.Machine
end

