-- ==== Sys2Proof/Machine/Sink.lean ====
section
/-! DEFINITION. The external sink's side of its contract (43_output_sink.md rules R96 to R101): the write, the answer it gives,
the amplitude range and the read. -/

namespace Sys2Proof.Machine

/-- The response bit of an answer (rule R61). -/
def respOf : SinkAnswer → SinkResp
  | .ok => .ok
  | .failKept => .fail
  | .failStored => .fail

/-- The sink's answer to the next SINKWR: the scripted one, else a free draw (rules R97 and R101; log 3). -/
def Env.drawSinkAnswer (e : Env) : SinkAnswer × Env :=
  match e.sinkAnswers with
  | a :: rest => (a, { e with sinkAnswers := rest })
  | [] => (Config.freeSinkAnswer e.draws, { e with draws := e.draws + 1 })

/-- `clamp(v, lo, hi)` of the sink (rule R97). -/
def Sink.clampValue (k : Sink) (v : Byte) : Byte :=
  BitVec.ofNat 8 (clamp v.toNat k.lo.toNat k.hi.toNat)

/-- The sink's side of SinkWrite (rule R97). A failed write may store the clamped value even when it is the first, or the
first not yet followed by one answered `ok`. The spec's files differ there: rule R97 draws from the old value and the new one
(decision D18), while rule R99's corner case and decision D20 speak of successful writes alone. DESIGN CHOICE, safe (log 4):
the draw of rule R97 stands, and keeping the old value, the other reading, is one of its outcomes. -/
def Sink.write (k : Sink) (v : Byte) : SinkAnswer → Sink
  | .ok => { k with currentValue := some (k.clampValue v), emitted := k.emitted ++ [k.clampValue v] }
  | .failKept => k
  | .failStored => { k with currentValue := some (k.clampValue v) }

/-- The clamped amplitude, in thousandths (rule R98). -/
def clampAmplitude (a : Nat) : Nat := clamp a 0 1000

/-- `hi = (HI_MAX * a + 500) // 1000` on the clamped amplitude (rule R98). -/
def amplitudeHi (a : Nat) : Byte :=
  BitVec.ofNat 8 ((Config.hiMax * clampAmplitude a + 500) / 1000)

/-- The sink's side of SetAmplitude (rule R98): the range becomes `[0, hi]`; `current_value` is not changed. -/
def Sink.setAmplitude (k : Sink) (a : Nat) : Sink := { k with lo := 0#8, hi := amplitudeHi a }

end Sys2Proof.Machine
end

