-- ==== Sys2Proof/Machine/Ops.lean ====
section
/-! DEFINITION. The internal operations that the instructions share: recording, error events, the scaler, the accumulator,
the read port and the sample write. -/

namespace Sys2Proof.Machine

/-! ## Parts of the state -/

def State.setBlock (s : State) (b : Block) : State := { s with block := b }
def State.setSink (s : State) (k : Sink) : State := { s with sink := k }
def State.setEnv (s : State) (e : Env) : State := { s with env := e }

/-- Appends to the observation of the run (rule R131). -/
def State.record (s : State) (o : Obs) : State := { s with trace := s.trace ++ [o] }

/-! ## Error events, the block's counterpart of taking an exception

There is no trap entry and no return (60_exceptions.md rules R108 and R109): an event sets the flag it has, is recorded with
its code (rule R102), and the machine goes on. -/

/-- Meets an event: `raise` and `note` of 00_scope.md rule R11. -/
def State.meet (s : State) (e : Event) : State :=
  (s.setBlock (s.block.flagEvent e)).record (.event e)

/-- Meets an event under a condition. -/
def State.meetIf (s : State) (c : Bool) (e : Event) : State := if c then s.meet e else s

/-! ## The frequency scaler (40_frequency.md rules R71 and R72) -/

/-- `q = floor(FREQ * 65536 / (1000 * SAMPLE_RATE))`, exact. In the states with SAMPLE_RATE = 0, which no run reaches (rule
R66), a free value: DESIGN CHOICE, safe (log 16). -/
def scaledIncrement (f : FreqBits) (r : RateBits) : Nat :=
  if r = 0#20 then Config.zeroRateQuotient f else f.toNat * 65536 / (1000 * r.toNat)

/-- UpdateIncrement (rule R71): PHASE_INC keeps the low 16 bits of `q`. -/
def Block.updateIncrement (b : Block) : Block :=
  b.setPhaseInc (BitVec.ofNat 16 (scaledIncrement b.freq b.sampleRate))

/-- The scaler on a datapath of `w` bits (rule R72): zero-extended operands, product, quotient and denominator in `w` bits.
No instruction calls it; rule R72's claim about it is an obligation. -/
def scaledIncrementIn (w : Nat) (f : FreqBits) (r : RateBits) : BitVec w :=
  f.setWidth w * BitVec.ofNat w 65536 / (BitVec.ofNat w 1000 * r.setWidth w)

/-- SetSampleRate (rule R70): clamp, note, write, recompute. -/
def State.setSampleRate (s : State) (p : Payload) : State :=
  let s1 := s.meetIf (rateIsClamped p) .valueClamped
  s1.setBlock (s1.block.setSampleRate (clampRate p)).updateIncrement

/-! ## The phase accumulator -/

/-- The index of an accumulator: `PHASE_ACC[15:8]` (rules R18 and R73). -/
def phaseIndex (acc : PhaseBits) : Byte := acc.extractLsb' 8 8

/-- NextPhase (rule R73): add modulo 2^16, then take the index of the new accumulator. -/
def Block.nextPhase (b : Block) : Byte × Block :=
  let acc := b.phaseAcc + b.phaseInc
  (phaseIndex acc, b.setPhaseAcc acc)

/-! ## The read port -/

/-- The word at a read address (20_memory.md rules R33 and R34). -/
def Block.readPort (b : Block) (a : Byte) : Word :=
  if a = 0x00#8 then b.status
  else if a = 0x01#8 then b.freq.setWidth 32
  else if a = 0x02#8 then b.sampleRate.setWidth 32
  else if a = 0x03#8 then b.phaseAcc.setWidth 32
  else if a = 0x04#8 then b.phaseInc.setWidth 32
  else 0#32

/-! ## The sample write -/

/-- SinkWrite (43_output_sink.md rule R97): one SINKWR, answered by the sink, observed with its response. -/
def State.sinkWrite (s : State) (v : Byte) : SinkResp × State :=
  let (ans, env) := s.env.drawSinkAnswer
  let s1 := (s.setEnv env).setSink (s.sink.write v ans)
  (respOf ans, s1.record (.sinkwr v (respOf ans)))

end Sys2Proof.Machine
end

