-- ==== Sys2Proof/Machine/Engine.lean ====
section
/-! DEFINITION. The sample-fetch state machine (42_engine.md): SET_WAVE, START, STOP, RD and TICK. -/

namespace Sys2Proof.Machine

/-- SET_WAVE (rule R91). -/
def execSetWave (pay : Payload) (s : State) : Host.Outcome State Fault Refusal :=
  let s1 := s.meetIf (!isWaveCode pay) .unknownWaveform
  .next (s1.setBlock (s1.block.setWaveSel (resolveWave pay)))

/-- START (rule R89): the rate and the increment are written before RUN. -/
def execStart (pay : Payload) (s : State) : Host.Outcome State Fault Refusal :=
  let s1 := if suppliesRate pay then s.setSampleRate pay else s
  .next (s1.setBlock (s1.block.setRun .running))

/-- STOP (rule R90). -/
def execStop (s : State) : Host.Outcome State Fault Refusal :=
  .next (s.setBlock (s.block.setRun .stopped))

/-- RD (rule R92): the word is the reply; no state of the block changes. -/
def execRd (addr : Byte) (s : State) : Host.Outcome State Fault Refusal :=
  .next (s.record (.reply addr (s.block.readPort addr)))

/-- The three steps of a TICK with RUN = 1: ADVANCE, FETCH, EMIT (rule R93). A failed write is observed before the event that
it raises: DEDUCED, safe (log 19). -/
def samplePeriod (s : State) : State :=
  let (idx, b) := s.block.nextPhase
  let v := romRead b.waveSel idx
  match (s.setBlock b).sinkWrite v with
  | (.ok, s1) => s1
  | (.fail, s1) => s1.meet .deviceWriteFailure

/-- TICK (rule R93): no effect at all while RUN = 0. -/
def execTick (s : State) : Host.Outcome State Fault Refusal :=
  match s.block.run with
  | .stopped => .next s
  | .running => .next (samplePeriod s)

end Sys2Proof.Machine
end

