-- ==== Sys2Proof/Machine/Errors.lean ====
section
/-! DEFINITION. ILLEGAL: a command word that spells no command (60_exceptions.md rule R105). -/

namespace Sys2Proof.Machine

/-- ILLEGAL (rule R105): IllegalCommand is met, which sets CMD_ERR; no other effect. A word that spells a
command, with which no decoder builds an ILLEGAL, has the same effect here: DEDUCED, safe (log 18). -/
def execIllegal (word : Word) (s : State) : Host.Outcome State Fault Refusal :=
  .next (s.meet (.illegalCommand word))

end Sys2Proof.Machine
end

