-- ==== Sys2Proof/Machine/Frequency.lean ====
section
/-! DEFINITION. The host command of the FrequencyController: SET_FREQ (40_frequency.md rule R69). -/

namespace Sys2Proof.Machine

/-- SET_FREQ (rule R69). -/
def execSetFreq (pay : Payload) (s : State) : Host.Outcome State Fault Refusal :=
  let s1 := s.meetIf (freqIsClamped pay) .valueClamped
  .next (s1.setBlock (s1.block.setFreq (clampFreq pay)).updateIncrement)

end Sys2Proof.Machine
end

