-- ==== Sys2Proof/Machine/Reset.lean ====
section
/-! DEFINITION. RST (70_reset_and_hazards.md rule R120). -/

namespace Sys2Proof.Machine

/-- The register writes of RST in the order of rule R120; the increment is computed, not copied. -/
def Block.performReset (b : Block) : Block :=
  let b1 := ((b.setFreq Config.freqResetMhz).setSampleRate Config.srReset).setPhaseAcc 0#16
  let b2 := b1.updateIncrement
  (((b2.setWaveSel Config.waveReset).setRun .stopped).setCmdErr false).setSinkFault false

/-- RST (rules R120, R121 and R123): the registers only; the sink, the agents and the observation of the run are not
touched. That the observation is kept is DEDUCED, safe (log 7). -/
def execRst (s : State) : Host.Outcome State Fault Refusal :=
  .next (s.setBlock s.block.performReset)

end Sys2Proof.Machine
end

