-- ==== Sys2Proof/Machine/Dispatch.lean ====
section
/-! DEFINITION. One arm per operation of spec/opcode_table.json. -/

namespace Sys2Proof.Machine

def exec (i : Instr) (s : State) : Host.Outcome State Fault Refusal :=
  match i with
  | .setFreq pay => Sys2Proof.Machine.execSetFreq pay s
  | .setWave pay => Sys2Proof.Machine.execSetWave pay s
  | .start pay => Sys2Proof.Machine.execStart pay s
  | .stop => Sys2Proof.Machine.execStop s
  | .illegal word => Sys2Proof.Machine.execIllegal word s
  | .rd addr => Sys2Proof.Machine.execRd addr s
  | .tick => Sys2Proof.Machine.execTick s
  | .rst => Sys2Proof.Machine.execRst s

end Sys2Proof.Machine
end

