-- ==== Sys2Proof/WellFormed.lean ====
section
/-! DEFINITION. Which operations a presented transaction can spell. The payloads and the read address have exactly the
width of their fields, and all their values are legal (30_encoding.md rules R54 and R58); only ILLEGAL has a condition: its
word spells none of the four commands (rules R53 and R63). -/

namespace Sys2Proof

/-- The word spells one of the four commands: opcode 1, 2 or 3 with any payload, or the one word of STOP (rule R52). -/
def spellsCommand (w : Word) : Bool :=
  w &&& 0xF0000000#32 == 0x10000000#32
    || w &&& 0xF0000000#32 == 0x20000000#32
    || w &&& 0xF0000000#32 == 0x30000000#32
    || w == 0x40000000#32

/-- An operation that some transaction decodes to. -/
def Instr.wellFormed : Instr → Bool
  | .setFreq _ => true
  | .setWave _ => true
  | .start _ => true
  | .stop => true
  | .illegal w => !spellsCommand w
  | .rd _ => true
  | .tick => true
  | .rst => true

end Sys2Proof
end

