-- ==== Sys2Proof/Decode.lean ====
section
/-! DEFINITION. Decoding of transactions (30_encoding.md rules R50 to R63), the opcode map as data, the encoder, the
byte-serial carrier of rule R36, and the host's numbering of table words. -/

namespace Sys2Proof

/-- `OP = word[31:28]` (rule R50). -/
def opOf (w : Word) : Opcode := w.extractLsb' 28 4

/-- `PAY = word[27:0]` (rules R50 and R51). -/
def payOf (w : Word) : Payload := w.extractLsb' 0 28

/-- Rule R63, total: every word is one of the four commands or ILLEGAL. -/
def decodeCmd (w : Word) : Instr :=
  if opOf w = 0x1#4 then .setFreq (payOf w)
  else if opOf w = 0x2#4 then .setWave (payOf w)
  else if opOf w = 0x3#4 then .start (payOf w)
  else if opOf w = 0x4#4 ∧ payOf w = 0#28 then .stop
  else .illegal w

/-- The operation a presented transaction asks for (rules R58, R59, R60 and R63). Every transaction has one. -/
def decode : Transaction → Instr
  | .cmd w => decodeCmd w
  | .rd a => .rd a
  | .tick => .tick
  | .rst => .rst

/-! ## The opcode map of rule R52 as data -/

/-- One row of the opcode map that spells a command: its match and mask, and the command built from the payload. -/
structure OpcodeRow where
  pattern : Word
  mask : Word
  build : Payload → Instr

/-- The word belongs to the row. -/
def OpcodeRow.hits (r : OpcodeRow) (w : Word) : Bool := w &&& r.mask == r.pattern

/-- The four rows of rule R52 that spell commands (spec/opcode_table.json). -/
def opcodeRows : List OpcodeRow :=
  [ ⟨0x10000000#32, 0xF0000000#32, .setFreq⟩,
    ⟨0x20000000#32, 0xF0000000#32, .setWave⟩,
    ⟨0x30000000#32, 0xF0000000#32, .start⟩,
    ⟨0x40000000#32, 0xFFFFFFFF#32, fun _ => .stop⟩ ]

/-- Decoding by the rows' match and mask; ILLEGAL has the lowest priority (the note of its table row). -/
def decodeByRows (w : Word) : Instr :=
  match opcodeRows.find? (·.hits w) with
  | some r => r.build (payOf w)
  | none => .illegal w

/-! ## The encoder -/

/-- The transaction of an operation (rules R50, R52, R54, R58, R59, R60): OP in the top four bits, PAY below. -/
def encode : Instr → Transaction
  | .setFreq p => .cmd (0x1#4 ++ p)
  | .setWave p => .cmd (0x2#4 ++ p)
  | .start p => .cmd (0x3#4 ++ p)
  | .stop => .cmd 0x40000000#32
  | .illegal w => .cmd w
  | .rd a => .rd a
  | .tick => .tick
  | .rst => .rst

/-! ## The byte-serial carrier (rule R36, outside the block) -/

/-- The four bytes of a word as a byte-serial carrier sends them. -/
def carrierBytes (o : ByteOrder) (w : Word) : List Byte :=
  let b0 := w.extractLsb' 0 8
  let b1 := w.extractLsb' 8 8
  let b2 := w.extractLsb' 16 8
  let b3 := w.extractLsb' 24 8
  match o with
  | .leastFirst => [b0, b1, b2, b3]
  | .mostFirst => [b3, b2, b1, b0]

/-- The word the block receives from four bytes of the carrier. -/
def carrierWord (o : ByteOrder) (c0 c1 c2 c3 : Byte) : Word :=
  match o with
  | .leastFirst => c3 ++ c2 ++ c1 ++ c0
  | .mostFirst => c0 ++ c1 ++ c2 ++ c3

/-- Why bytes make no transaction. -/
inductive DecodeReject where
  /-- The channel does not carry that number of bytes (rules R50, R58, R59, R60 and R62). Safe: nothing is executed. -/
  | wrongLength (ch : Channel) (nbytes : Nat)
deriving DecidableEq, Repr

/-- The transaction that bytes on a channel make: four on CMD, one on RD, none on the strobes, and nothing else. -/
def transactionOfBytes (o : ByteOrder) (ch : Channel) (bytes : List Byte) : Except DecodeReject Transaction :=
  match ch with
  | .cmd =>
    match bytes with
    | [c0, c1, c2, c3] => .ok (.cmd (carrierWord o c0 c1 c2 c3))
    | _ => .error (.wrongLength .cmd bytes.length)
  | .rd =>
    match bytes with
    | [a] => .ok (.rd a)
    | _ => .error (.wrongLength .rd bytes.length)
  | .tick => if bytes.isEmpty then .ok .tick else .error (.wrongLength .tick bytes.length)
  | .rst => if bytes.isEmpty then .ok .rst else .error (.wrongLength .rst bytes.length)

/-- The decoder on bytes of a carrier: total on any bytes, rejecting by name. -/
def decodeBytes (o : ByteOrder) (ch : Channel) (bytes : List Byte) : Except DecodeReject Instr :=
  (transactionOfBytes o ch bytes).map decode

/-- The decoder behind the platform's own carrier, whose byte order is the OPEN parameter of rule R36. -/
def decodeBusBytes (ch : Channel) (bytes : List Byte) : Except DecodeReject Instr :=
  decodeBytes Config.busByteOrder ch bytes

/-! ## The host's numbering of table words -/

/-- The transaction of a table word of `nbits` bits: 32 bits are a command word, 8 bits a read address. The table gives
the two strobes no bits; DESIGN CHOICE, safe (log 6): 0 bits are TICK when the number is 0 and RST when it is 1. -/
def transactionOfTable (nbits w : Nat) : Option Transaction :=
  match nbits, w with
  | 32, w => if w < 2 ^ 32 then some (.cmd (BitVec.ofNat 32 w)) else none
  | 8, w => if w < 2 ^ 8 then some (.rd (BitVec.ofNat 8 w)) else none
  | 0, 0 => some .tick
  | 0, 1 => some .rst
  | _, _ => none

/-- What the decoder reads from a table word. -/
def decodeTableWord (nbits w : Nat) : Option Instr :=
  (transactionOfTable nbits w).map decode

end Sys2Proof
end

