-- ==== Sys2Proof/Machine/Schedule.lean ====
section
/-! DEFINITION. Which transaction the block performs next (20_memory.md rules R41 and R42), what the sink does with a request
of its own, and how the agents present transactions between steps (70_reset_and_hazards.md rule R132). -/

namespace Sys2Proof.Machine

/-- What is performed next: a transaction of the block, or an operation of the host on the sink. -/
inductive Request where
  | block (t : Transaction)
  | sink (op : SinkOp)
deriving DecidableEq, Repr

def HostRequest.toRequest : HostRequest → Request
  | .cmd w => .block (.cmd w)
  | .rd a => .block (.rd a)
  | .sink op => .sink op

/-! ## The choice of the next transaction -/

/-- The agent has something pending. -/
def Env.ready (e : Env) : Agent → Bool
  | .host => !e.host.isEmpty
  | .trigger => e.ticks != 0
  | .platform => e.resets != 0

/-- The agents with something pending. -/
def Env.readyAgents (e : Env) : List Agent :=
  [Agent.host, .trigger, .platform].filter e.ready

/-- The first agent of a schedule that has something pending, with the rest of the schedule; names of agents that have
nothing pending are passed over (log 2). -/
def Env.firstReady (e : Env) : List Agent → Option (Agent × List Agent)
  | [] => none
  | a :: rest => if e.ready a then some (a, rest) else e.firstReady rest

/-- The agent that moves: the one the schedule names, else the only one that is ready, else a free choice among those that
are (rule R42: any order; log 2). -/
def Env.chooseAgent (e : Env) : Option (Agent × Env) :=
  match e.firstReady e.order with
  | some (a, rest) => some (a, { e with order := rest })
  | none =>
    match e.readyAgents with
    | [] => none
    | [a] => some (a, { e with order := [] })
    | a :: b :: rest =>
      let all := a :: b :: rest
      some (all.getD (Config.freePick e.draws % all.length) a, { e with order := [], draws := e.draws + 1 })

/-- The oldest thing the agent has pending: one agent's transactions are performed in the order issued (rule R42). -/
def Env.takeFrom (e : Env) : Agent → Option (Request × Env)
  | .host =>
    match e.host with
    | [] => none
    | r :: rest => some (r.toRequest, { e with host := rest })
  | .trigger =>
    match e.ticks with
    | 0 => none
    | n + 1 => some (.block .tick, { e with ticks := n })
  | .platform =>
    match e.resets with
    | 0 => none
    | n + 1 => some (.block .rst, { e with resets := n })

/-- Accepts the next request, and takes it out of what is pending. -/
def State.accept (s : State) : Option (Request × State) :=
  match s.env.chooseAgent with
  | none => none
  | some (a, e) =>
    match e.takeFrom a with
    | none => none
    | some (r, e') => some (r, s.setEnv e')

/-! ## The host's operations on the sink, in the order the host issues them with its other requests (DEDUCED, safe; log 10) -/

/-- SetAmplitude (43_output_sink.md rule R98), with ValueClamped where the amplitude lies outside its range (rule R102). -/
def performSetAmplitude (a : Nat) (s : State) : State :=
  let s1 := s.meetIf (clampAmplitude a != a) .valueClamped
  s1.setSink (s1.sink.setAmplitude a)

/-- GetValue (rule R99): the value, or no value before the first write, is the observation, and the machine goes on.
DEDUCED, safe (log 8). -/
def performGetValue (s : State) : State := s.record (.sinkRead s.sink.currentValue)

def performSinkOp (op : SinkOp) (s : State) : State :=
  match op with
  | .setAmplitude a => performSetAmplitude a s
  | .getValue => performGetValue s

/-! ## The agents' moves between steps -/

/-- What an agent can do at any time (rule R132): present a transaction, or settle a choice that is its own. -/
inductive Move where
  | hostIssues (r : HostRequest)
  | triggerTicks
  | platformResets
  | sinkWillAnswer (a : SinkAnswer)
  | nextIs (a : Agent)
deriving DecidableEq, Repr

/-- A move changes only what is pending. -/
def Env.arrive (e : Env) : Move → Env
  | .hostIssues r => { e with host := e.host ++ [r] }
  | .triggerTicks => { e with ticks := e.ticks + 1 }
  | .platformResets => { e with resets := e.resets + 1 }
  | .sinkWillAnswer a => { e with sinkAnswers := e.sinkAnswers ++ [a] }
  | .nextIs a => { e with order := e.order ++ [a] }

def State.arrive (s : State) (m : Move) : State := s.setEnv (s.env.arrive m)

/-- A tick falls due at the trigger (70_reset_and_hazards.md rule R128). With none of its ticks pending the trigger presents it.
With one still pending, so that the trigger could not deliver on time, its overrun policy decides: a late tick is presented
behind the pending one, a merged tick is delivered as part of the pending one, a dropped tick is not delivered. DESIGN CHOICE,
safe (log 25). -/
def Env.tickFallsDue (o : TickOverrun) (e : Env) : Env :=
  if e.ready .trigger then
    match o with
    | .delay => e.arrive .triggerTicks
    | .merge => e
    | .drop => e
  else e.arrive .triggerTicks

def State.tickFallsDue (o : TickOverrun) (s : State) : State := s.setEnv (s.env.tickFallsDue o)

/-- A tick falls due at the platform's own trigger, whose policy is the OPEN parameter of rule R8. -/
def State.platformTickFallsDue (s : State) : State := s.tickFallsDue Config.tickOverrun

/-- Puts a transaction where the very next step takes it from: at the front of its agent's queue, ahead of older requests, with
that agent named first in the schedule. Nothing else changes. It is no move of an agent, whose own order (rule R42) is kept by
`Env.arrive`: DESIGN CHOICE, safe (log 1). -/
def Env.present (e : Env) : Transaction → Env
  | .cmd w => { e with host := .cmd w :: e.host, order := .host :: e.order }
  | .rd a => { e with host := .rd a :: e.host, order := .host :: e.order }
  | .tick => { e with ticks := e.ticks + 1, order := .trigger :: e.order }
  | .rst => { e with resets := e.resets + 1, order := .platform :: e.order }

def State.present (s : State) (t : Transaction) : State := s.setEnv (s.env.present t)

end Sys2Proof.Machine
end

