-- ==== Sys2Proof/Machine/Step.lean ====
section
/-! DEFINITION. One step: the block accepts one pending transaction and performs it completely (20_memory.md rule R41). -/

namespace Sys2Proof.Machine

/-- With nothing pending the block waits, unchanged: it never initiates a step (00_scope.md rule R7) and never halts
(70_reset_and_hazards.md rule R131). DEDUCED, safe (log 5). -/
def step (s : State) : Host.Outcome State Fault Refusal :=
  match s.accept with
  | none => .next s
  | some (.block t, s') => exec (decode t) s'
  | some (.sink op, s') => .next (performSinkOp op s')

/-- The state with the transaction of a table word presented, so that the next step performs it (log 1). A number that is no
table word changes nothing. -/
def State.withFetchWord (s : State) (nbits w : Nat) : State :=
  match transactionOfTable nbits w with
  | some t => s.present t
  | none => s

end Sys2Proof.Machine
end

