-- ==== Sys2Proof/Machine/Assembler.lean ====
section
/-! DEFINITION. The assembly syntax of transaction streams and its pseudo-instructions (30_encoding.md rules R64 and R65), from
characters to transactions. -/

namespace Sys2Proof.Machine

/-- Why a line is no transaction. Safe: nothing is presented. -/
inductive AsmError where
  /-- The line is none of the forms of rules R64 and R65. -/
  | noSuchLine
  /-- An operand that does not fit its field: an assembly error, never truncated (rule R64). -/
  | operandTooWide
deriving DecidableEq, Repr

/-- The lines of rule R64, operands not yet checked against their fields. -/
inductive Line where
  | setFreq (n : Nat)
  | setWave (c : Nat)
  | start (n : Nat)
  | stop
  | word (w : Nat)
  | rd (a : Nat)
  | tick
  | rst
deriving DecidableEq, Repr

/-- The names of the four waveforms (rule R65). -/
inductive WaveName where
  | sine
  | square
  | sawtooth
  | triangle
deriving DecidableEq, Repr

/-- The names of the read addresses (rule R65). -/
inductive ReadName where
  | status
  | freq
  | sampleRate
  | phaseAcc
  | phaseInc
deriving DecidableEq, Repr

/-- The pseudo-instructions of rule R65. A frequency in hertz is its whole part and its three fractional digits. -/
inductive Pseudo where
  | setFreqHz (whole thousandths : Nat)
  | setWaveNamed (w : WaveName)
  | startBare
  | isRunning
  | rdNamed (r : ReadName)
  | tickTimes (n : Nat)
deriving DecidableEq, Repr

/-- The code of a waveform's name (rule R55). -/
def WaveName.code : WaveName → Nat
  | .sine => 0
  | .square => 1
  | .sawtooth => 2
  | .triangle => 3

/-- The address of a register's name (20_memory.md rule R33). -/
def ReadName.addr : ReadName → Nat
  | .status => 0
  | .freq => 1
  | .sampleRate => 2
  | .phaseAcc => 3
  | .phaseInc => 4

/-- The expansions of rule R65. -/
def expandPseudo : Pseudo → List Line
  | .setFreqHz whole thousandths => [.setFreq (whole * 1000 + thousandths)]
  | .setWaveNamed w => [.setWave w.code]
  | .startBare => [.start 0]
  | .isRunning => [.rd 0]
  | .rdNamed r => [.rd r.addr]
  | .tickTimes n => List.replicate n .tick

/-- A command with opcode `op`, if its operand fits PAY. -/
def assembleCmd (op : Opcode) (n : Nat) : Except AsmError Transaction :=
  if n < 2 ^ 28 then .ok (.cmd (op ++ BitVec.ofNat 28 n)) else .error .operandTooWide

/-- The encoding of a line (rule R64). -/
def assembleLine : Line → Except AsmError Transaction
  | .setFreq n => assembleCmd 0x1#4 n
  | .setWave c => assembleCmd 0x2#4 c
  | .start n => assembleCmd 0x3#4 n
  | .stop => .ok (.cmd 0x40000000#32)
  | .word w => if w < 2 ^ 32 then .ok (.cmd (BitVec.ofNat 32 w)) else .error .operandTooWide
  | .rd a => if a < 256 then .ok (.rd (BitVec.ofNat 8 a)) else .error .operandTooWide
  | .tick => .ok .tick
  | .rst => .ok .rst

/-! ## The characters of a line. DESIGN CHOICE, safe (log 17): words are separated by spaces and tabs, and hexadecimal digits
may be of either case. -/

def isBlank (c : Char) : Bool := c == ' ' || c == '\t' || c == '\r'

/-- Cuts characters into the maximal runs between separators; an empty run is kept only where `keepEmpty` says so. -/
def cutAt (sep : Char → Bool) (keepEmpty : Bool) (cs : List Char) : List (List Char) :=
  let keep := fun (w : List Char) (ws : List (List Char)) => if w.isEmpty && !keepEmpty then ws else w :: ws
  let (w, ws) := cs.foldr (fun c (w, ws) => if sep c then ([], keep w ws) else (c :: w, ws)) ([], [])
  keep w ws

/-- The words of a line, without its comment: `;` starts a comment (rule R64). -/
def wordsOf (line : List Char) : List (List Char) :=
  cutAt isBlank false (line.takeWhile (· != ';'))

def digitValue (c : Char) : Option Nat :=
  let n := c.toNat
  if 48 ≤ n ∧ n ≤ 57 then some (n - 48)
  else if 65 ≤ n ∧ n ≤ 70 then some (n - 55)
  else if 97 ≤ n ∧ n ≤ 102 then some (n - 87)
  else none

/-- The value of a non-empty run of digits in a base. -/
def digitsValue (base : Nat) (cs : List Char) : Option Nat :=
  if cs.isEmpty then none
  else cs.foldl (fun acc c =>
    match acc, digitValue c with
    | some n, some d => if d < base then some (n * base + d) else none
    | _, _ => none) (some 0)

/-- A number: decimal, or hexadecimal after `0x` (rule R64). -/
def parseNumber : List Char → Option Nat
  | '0' :: 'x' :: ds => digitsValue 16 ds
  | ds => digitsValue 10 ds

/-- A decimal number with at most three fractional digits, as its whole part and thousandths (rule R65). -/
def parseHz (cs : List Char) : Option (Nat × Nat) :=
  match cutAt (· == '.') true cs with
  | [w] => (digitsValue 10 w).map fun n => (n, 0)
  | [w, f] =>
    if 3 < f.length then none
    else match digitsValue 10 w, digitsValue 10 f with
      | some n, some m => some (n, m * 10 ^ (3 - f.length))
      | _, _ => none
  | _ => none

def kwSetFreq : List Char := ['S', 'E', 'T', '_', 'F', 'R', 'E', 'Q']
def kwSetFreqHz : List Char := kwSetFreq ++ ['_', 'H', 'Z']
def kwSetWave : List Char := ['S', 'E', 'T', '_', 'W', 'A', 'V', 'E']
def kwStart : List Char := ['S', 'T', 'A', 'R', 'T']
def kwStop : List Char := ['S', 'T', 'O', 'P']
def kwWord : List Char := ['.', 'w', 'o', 'r', 'd']
def kwRd : List Char := ['R', 'D']
def kwTick : List Char := ['T', 'I', 'C', 'K']
def kwRst : List Char := ['R', 'S', 'T']
def kwIsRunning : List Char := ['I', 'S', '_', 'R', 'U', 'N', 'N', 'I', 'N', 'G']

def parseWaveName (cs : List Char) : Option WaveName :=
  if cs = ['s', 'i', 'n', 'e'] then some .sine
  else if cs = ['s', 'q', 'u', 'a', 'r', 'e'] then some .square
  else if cs = ['s', 'a', 'w', 't', 'o', 'o', 't', 'h'] then some .sawtooth
  else if cs = ['t', 'r', 'i', 'a', 'n', 'g', 'l', 'e'] then some .triangle
  else none

def parseReadName (cs : List Char) : Option ReadName :=
  if cs = ['S', 'T', 'A', 'T', 'U', 'S'] then some .status
  else if cs = ['F', 'R', 'E', 'Q'] then some .freq
  else if cs = ['S', 'A', 'M', 'P', 'L', 'E', '_', 'R', 'A', 'T', 'E'] then some .sampleRate
  else if cs = ['P', 'H', 'A', 'S', 'E', '_', 'A', 'C', 'C'] then some .phaseAcc
  else if cs = ['P', 'H', 'A', 'S', 'E', '_', 'I', 'N', 'C'] then some .phaseInc
  else none

/-- A line with no operand. -/
def parseBare (m : List Char) : Option (List Line) :=
  if m = kwStop then some [.stop]
  else if m = kwTick then some [.tick]
  else if m = kwRst then some [.rst]
  else if m = kwStart then some (expandPseudo .startBare)
  else if m = kwIsRunning then some (expandPseudo .isRunning)
  else none

/-- A line with one operand. -/
def parseWith (m a : List Char) : Option (List Line) :=
  if m = kwSetFreq then (parseNumber a).map fun n => [.setFreq n]
  else if m = kwSetFreqHz then (parseHz a).map fun h => expandPseudo (.setFreqHz h.1 h.2)
  else if m = kwSetWave then
    match parseWaveName a with
    | some w => some (expandPseudo (.setWaveNamed w))
    | none => (parseNumber a).map fun n => [.setWave n]
  else if m = kwStart then (parseNumber a).map fun n => [.start n]
  else if m = kwWord then (parseNumber a).map fun n => [.word n]
  else if m = kwRd then
    match parseReadName a with
    | some r => some (expandPseudo (.rdNamed r))
    | none => (parseNumber a).map fun n => [.rd n]
  else if m = kwTick then (parseNumber a).map fun n => expandPseudo (.tickTimes n)
  else none

/-- The lines that one line of text stands for; a blank line or a comment stands for none. -/
def parseLine (line : List Char) : Option (List Line) :=
  match wordsOf line with
  | [] => some []
  | [m] => parseBare m
  | [m, a] => parseWith m a
  | _ => none

/-- The transactions of a list of lines. -/
def assembleLines (ls : List Line) : Except AsmError (List Transaction) :=
  ls.foldr (fun l acc =>
    match assembleLine l, acc with
    | .ok t, .ok ts => .ok (t :: ts)
    | .error e, _ => .error e
    | .ok _, .error e => .error e) (.ok [])

/-- Assembles a text, one transaction per line (rule R64). -/
def assemble (text : List Char) : Except AsmError (List Transaction) :=
  (cutAt (· == '\n') true text).foldr (fun line acc =>
    match parseLine line, acc with
    | none, _ => .error .noSuchLine
    | some ls, acc =>
      match assembleLines ls, acc with
      | .ok ts, .ok rest => .ok (ts ++ rest)
      | .error e, _ => .error e
      | .ok _, .error e => .error e) (.ok [])

end Sys2Proof.Machine
end

