-- ==== Sys2Proof/Machine/Trace.lean ====
section
/-! DEFINITION. The three sequences that the observation of a run is made of (70_reset_and_hazards.md rule R131), read off the
trace, and the entries that are faults of the run. -/

namespace Sys2Proof.Machine

/-- The values sent on SINKWR with their responses, oldest first. -/
def State.sinkWrites (s : State) : List (Byte × SinkResp) :=
  s.trace.filterMap fun
    | .sinkwr v r => some (v, r)
    | .reply _ _ => none
    | .event _ => none
    | .sinkRead _ => none

/-- The samples sent on SINKWR, oldest first. -/
def State.samples (s : State) : List Byte := s.sinkWrites.map Prod.fst

/-- The words returned by RD, oldest first. -/
def State.replies (s : State) : List Word :=
  s.trace.filterMap fun
    | .sinkwr _ _ => none
    | .reply _ w => some w
    | .event _ => none
    | .sinkRead _ => none

/-- The event history (60_exceptions.md rule R102), oldest first. -/
def State.events (s : State) : List Event :=
  s.trace.filterMap fun
    | .sinkwr _ _ => none
    | .reply _ _ => none
    | .event e => some e
    | .sinkRead _ => none

/-- The codes of the event history (rule R102). -/
def State.eventCodes (s : State) : List Nat := s.events.map Event.code

/-- A fault of the run: IllegalCommand and DeviceWriteFailure (rules R105 and R106), and a read of the sink that gave no
value (43_output_sink.md rule R99). -/
def Obs.isFault : Obs → Bool
  | .sinkwr _ _ => false
  | .reply _ _ => false
  | .event e => e.isFault
  | .sinkRead v => v.isNone

end Sys2Proof.Machine
end

