-- ==== Sys2Proof/Safety.lean ====
section
/-! DEFINITION. What claims are stated in: the legal states, runs of transactions, the world of agents around the block, and
what counts as a run without faults. -/

namespace Sys2Proof.Machine

/-! ## Legal states -/

/-- The legal values of the registers and the increment's invariant (10_state.md rules R15, R16, R17 and R19). -/
abbrev Block.Legal (b : Block) : Prop :=
  (100 ≤ b.freq.toNat ∧ b.freq.toNat ≤ 20000000) ∧
  (1 ≤ b.sampleRate.toNat ∧ b.sampleRate.toNat ≤ 1000000) ∧
  b.phaseInc.toNat = (b.freq.toNat * 65536 / (1000 * b.sampleRate.toNat)) % 65536

/-- `lo` is 0 at all times and `lo ≤ hi` (43_output_sink.md rule R96). -/
abbrev Sink.Legal (k : Sink) : Prop := k.lo.toNat = 0 ∧ k.lo.toNat ≤ k.hi.toNat

abbrev State.Legal (s : State) : Prop := s.block.Legal ∧ s.sink.Legal

/-! ## Runs -/

/-- Performs a list of operations in order, stopping at the first that does not answer a next state. -/
def execAll : List Instr → State → Host.Outcome State Fault Refusal
  | [], s => .next s
  | i :: is, s =>
    match exec i s with
    | .next t => execAll is t
    | .fault r => .fault r
    | .refused r => .refused r

/-- How many TICKs of a list are performed with RUN = 1, from a run state (42_engine.md rule R87). -/
def effectiveTicks : RunState → List Instr → Nat
  | _, [] => 0
  | r, .setFreq _ :: is => effectiveTicks r is
  | r, .setWave _ :: is => effectiveTicks r is
  | _, .start _ :: is => effectiveTicks .running is
  | _, .stop :: is => effectiveTicks .stopped is
  | r, .illegal _ :: is => effectiveTicks r is
  | r, .rd _ :: is => effectiveTicks r is
  | .running, .tick :: is => effectiveTicks .running is + 1
  | .stopped, .tick :: is => effectiveTicks .stopped is
  | _, .rst :: is => effectiveTicks .stopped is

/-- How many of the next `n` TICKs wrap PHASE_ACC, that is, leave it below what it was (40_frequency.md rules R73 and R76). -/
def tickWraps : Nat → State → Nat
  | 0, _ => 0
  | n + 1, s =>
    match exec .tick s with
    | .next t => (if t.block.phaseAcc.toNat < s.block.phaseAcc.toNat then 1 else 0) + tickWraps n t
    | .fault _ => 0
    | .refused _ => 0

/-- The operation may change PHASE_INC: SET_FREQ, START with a sample rate, RST (10_state.md rule R29). -/
def mayWriteIncrement : Instr → Bool
  | .setFreq _ => true
  | .setWave _ => false
  | .start p => p != 0#28
  | .stop => false
  | .illegal _ => false
  | .rd _ => false
  | .tick => false
  | .rst => true

/-! ## The block in its world -/

/-- The states that arise from reset when the agents move as they like between the block's steps (70_reset_and_hazards.md
rules R131 and R132). -/
inductive Reachable : State → Prop where
  | atReset : Reachable State.reset
  | afterMove {s : State} (m : Move) : Reachable s → Reachable (s.arrive m)
  | afterStep {s t : State} : Reachable s → step s = .next t → Reachable t

/-! The trigger's contract and fairness (60_exceptions.md rule R114), assumed of a platform and never shown. Rule R114 does not
say whether the trigger delivers a TICK when it presents the strobe or when the block accepts it. DESIGN CHOICE (log 24): both
readings are given, no step depends on either, and a claim that assumes one names it. -/

/-- The contract on a move, delivering read as presenting: a TICK is presented only while TRIG_ARM = 1. One presented before a
STOP stays pending across it, and has its effect if it is performed after a later START. DESIGN CHOICE (log 24). -/
def Move.keepsTriggerContract (m : Move) (s : State) : Prop :=
  m = .triggerTicks → s.block.trigArm = true

/-- The fairness of the trigger, delivering read as presenting: in a sequence of states, while TRIG_ARM stays 1 another TICK
is presented at some later point. DESIGN CHOICE (log 24). -/
def TriggerFair (r : Nat → State) : Prop :=
  ∀ n, (∀ m, n ≤ m → (r m).block.trigArm = true) → ∃ m, n ≤ m ∧ (r m).env.ticks < (r (m + 1)).env.ticks

/-- The next step accepts a TICK. -/
def State.acceptsTick (s : State) : Prop := ∃ s', s.accept = some (.block .tick, s')

/-- The contract on a state, delivering read as being accepted: a TICK is accepted only while TRIG_ARM = 1. DESIGN CHOICE
(log 24). -/
def State.keepsTriggerContractOnAcceptance (s : State) : Prop := s.acceptsTick → s.block.trigArm = true

/-- The fairness of the trigger, delivering read as being accepted: while TRIG_ARM stays 1 another TICK is accepted and
performed at some later point. DESIGN CHOICE (log 24). -/
def TriggerFairOnAcceptance (r : Nat → State) : Prop :=
  ∀ n, (∀ m, n ≤ m → (r m).block.trigArm = true) → ∃ m, n ≤ m ∧ (r m).acceptsTick ∧ step (r m) = .next (r (m + 1))

/-! ## Faults of a run -/

/-- No fault of the run is in its observation (rules R105 and R106). -/
def State.faultFree (s : State) : Bool := s.trace.all fun o => !o.isFault

end Sys2Proof.Machine
end

