-- ==== Sys2Proof/Certificates/Slice0/Obligations.lean ====
section
/-! DEFINITION. The statements about the model, from the numbered rules of spec/. -/

open Sys2Proof Sys2Proof.Machine

/-! ## Decoding -/

/-- 30_encoding.md rule R63: the operation of every 32-bit word, by the number in its top four bits and the number in its
low twenty-eight. -/
def Obligations.EveryWordDecodesByOpcodeAndPayload : Prop :=
  ∀ w : Word,
    (w.toNat / 2 ^ 28 = 1 → decode (.cmd w) = .setFreq (BitVec.ofNat 28 (w.toNat % 2 ^ 28))) ∧
    (w.toNat / 2 ^ 28 = 2 → decode (.cmd w) = .setWave (BitVec.ofNat 28 (w.toNat % 2 ^ 28))) ∧
    (w.toNat / 2 ^ 28 = 3 → decode (.cmd w) = .start (BitVec.ofNat 28 (w.toNat % 2 ^ 28))) ∧
    (w.toNat / 2 ^ 28 = 4 ∧ w.toNat % 2 ^ 28 = 0 → decode (.cmd w) = .stop) ∧
    (w.toNat / 2 ^ 28 = 4 ∧ w.toNat % 2 ^ 28 ≠ 0 → decode (.cmd w) = .illegal w) ∧
    (w.toNat / 2 ^ 28 = 0 ∨ 5 ≤ w.toNat / 2 ^ 28 → decode (.cmd w) = .illegal w)

/-- Rule R54: one word spells STOP; the other three commands are spelled with every payload. -/
def Obligations.StopHasOneEncodingAndOthersUseEveryPayload : Prop :=
  (∀ w : Word, decode (.cmd w) = .stop ↔ w = 0x40000000#32) ∧
  ∀ p : Payload,
    (∃ w : Word, decode (.cmd w) = .setFreq p) ∧ (∃ w : Word, decode (.cmd w) = .setWave p) ∧
      ∃ w : Word, decode (.cmd w) = .start p

/-- The decoder of rule R63 is the opcode map of rule R52 read by match and mask, and no word belongs to two rows. -/
def Obligations.OpcodeRowsAreDisjointAndSpellTheDecoder : Prop :=
  (∀ w : Word, decode (.cmd w) = decodeByRows w) ∧
  opcodeRows.Pairwise fun r r' => ∀ w : Word, ¬(r.hits w = true ∧ r'.hits w = true)

/-- Every well-formed operation is read back from its encoding, at every value of every operand. -/
def Obligations.DecodeOfEncodeIsTheInstruction : Prop :=
  ∀ i : Instr, i.wellFormed = true → decode (encode i) = i

/-- Every transaction is the encoding of the one well-formed operation it decodes to. -/
def Obligations.EncodeOfDecodeIsTheTransaction : Prop :=
  ∀ t : Transaction, (decode t).wellFormed = true ∧ encode (decode t) = t

/-- Words of 95_test_vectors.md, written out from rule R50, and the operations they stand for. -/
def Obligations.SpelledWordsDecode : Prop :=
  decode (.cmd 0x100F4240#32) = .setFreq 1000000#28 ∧
  decode (.cmd 0x20000009#32) = .setWave 9#28 ∧
  decode (.cmd 0x3000BB80#32) = .start 48000#28 ∧
  decode (.cmd 0x40000000#32) = .stop ∧
  decode (.cmd 0x48000000#32) = .illegal 0x48000000#32 ∧
  decode (.cmd 0x8000ABCD#32) = .illegal 0x8000ABCD#32 ∧
  decode (.rd 0x03#8) = .rd 3#8 ∧
  decode .tick = .tick ∧
  decode .rst = .rst

/-- Rule R36: the block receives the same word under either byte order of a byte-serial carrier. -/
def Obligations.CarrierDeliversTheSameWordUnderEitherByteOrder : Prop :=
  ∀ (o : ByteOrder) (w : Word), transactionOfBytes o .cmd (carrierBytes o w) = .ok (.cmd w)

/-- Rules R50, R58, R59, R60 and R62: a channel carries one length, and nothing else is a transaction. -/
def Obligations.BytesMakeATransactionExactlyAtTheChannelsLength : Prop :=
  ∀ (o : ByteOrder) (ch : Channel) (bytes : List Byte),
    (∃ t : Transaction, t.channel = ch ∧ transactionOfBytes o ch bytes = .ok t) ↔
      bytes.length = match ch with
        | .cmd => 4
        | .rd => 1
        | .tick => 0
        | .rst => 0

/-! ## Steps and the order of transactions -/

/-- A step performs the decoded operation of the transaction it takes, completely (rule R41). That the very next step takes the
one just presented is the model's (log 1, DESIGN CHOICE): `present` and `withFetchWord` put it at the front of its agent's
queue, ahead of older requests, and name that agent next. The numbers of the two strobes are the model's too (log 6, DESIGN
CHOICE). -/
def Obligations.StepRunsThePresentedTransaction : Prop :=
  (∀ (s : State) (t : Transaction), step (s.present t) = exec (decode t) s) ∧
  (∀ (s : State) (w : Nat), w < 2 ^ 32 →
    step (s.withFetchWord 32 w) = exec (decode (.cmd (BitVec.ofNat 32 w))) s) ∧
  (∀ (s : State) (w : Nat), w < 2 ^ 8 → step (s.withFetchWord 8 w) = exec (.rd (BitVec.ofNat 8 w)) s) ∧
  ∀ s : State, step (s.withFetchWord 0 0) = exec .tick s ∧ step (s.withFetchWord 0 1) = exec .rst s

/-- Rules R41 and R42: a step takes the oldest pending item of one agent and nothing of another, and performs it in a state
that differs only in what is pending; nothing is accepted exactly when nothing is pending, and then the block waits (the
waiting is the model's, log 5). -/
def Obligations.StepPerformsTheOldestItemOfOneAgent : Prop :=
  (∀ s : State, s.accept = none ↔ s.env.host = [] ∧ s.env.ticks = 0 ∧ s.env.resets = 0) ∧
  (∀ s : State, s.accept = none → step s = .next s) ∧
  (∀ (s s' : State) (t : Transaction), s.accept = some (.block t, s') → step s = exec (decode t) s') ∧
  ∀ (s s' : State) (r : Request), s.accept = some (r, s') →
    s'.block = s.block ∧ s'.sink = s.sink ∧ s'.trace = s.trace ∧ s'.env.sinkAnswers = s.env.sinkAnswers ∧
    ((∃ q, s.env.host = q :: s'.env.host ∧ r = q.toRequest ∧
        s'.env.ticks = s.env.ticks ∧ s'.env.resets = s.env.resets) ∨
     (s.env.ticks = s'.env.ticks + 1 ∧ r = .block .tick ∧
        s'.env.host = s.env.host ∧ s'.env.resets = s.env.resets) ∨
     (s.env.resets = s'.env.resets + 1 ∧ r = .block .rst ∧
        s'.env.host = s.env.host ∧ s'.env.ticks = s.env.ticks))

/-- Rule R42: every order of the pending agents is admitted. That the schedule's list names the agent that moves next, and that
the draw counter then stays, is the model's form of that freedom (log 2, DESIGN CHOICE). -/
def Obligations.EveryOrderOfPendingAgentsIsAdmitted : Prop :=
  ∀ (s : State) (a : Agent) (rest : List Agent), s.env.ready a = true → s.env.order = a :: rest →
    ∃ r s', s.accept = some (r, s') ∧ s'.env.order = rest ∧ s'.env.draws = s.env.draws ∧
      match a with
      | .host => ∃ q, s.env.host = q :: s'.env.host ∧ r = q.toRequest
      | .trigger => r = .block .tick
      | .platform => r = .block .rst

/-- Rules R108 and R131: no state stops the machine, and no operation does. -/
def Obligations.NothingStopsTheMachine : Prop :=
  (∀ s : State, ∃ t, step s = .next t) ∧ ∀ (i : Instr) (s : State), ∃ t, exec i s = .next t

/-! ## Reset -/

/-- 70_reset_and_hazards.md rule R120: RST and power-up put every register in its reset value, and nothing else happens. -/
def Obligations.RstPutsEveryRegisterInItsResetValue : Prop :=
  (∀ s : State,
    exec .rst s = .next
      { s with
        block :=
          { freq := 1000000#25, sampleRate := 40000#20, phaseAcc := 0#16, phaseInc := 1638#16,
            waveSel := 0#2, run := .stopped, cmdErr := false, sinkFault := false } }) ∧
  State.reset.block =
    { freq := 1000000#25, sampleRate := 40000#20, phaseAcc := 0#16, phaseInc := 1638#16,
      waveSel := 0#2, run := .stopped, cmdErr := false, sinkFault := false }

/-- Rules R121 and R96: what the host, the trigger and the sink find after reset. -/
def Obligations.ResetStateIsSeenFromOutside : Prop :=
  State.reset.block.trigArm = false ∧ State.reset.block.trigRate = 40000#20 ∧
  State.reset.block.readPort 0x00#8 = 0x00000000#32 ∧ State.reset.block.readPort 0x01#8 = 0x000F4240#32 ∧
  State.reset.block.readPort 0x02#8 = 0x00009C40#32 ∧ State.reset.block.readPort 0x03#8 = 0x00000000#32 ∧
  State.reset.block.readPort 0x04#8 = 0x00000666#32 ∧
  State.reset.sink.lo = 0#8 ∧ State.reset.sink.hi = 255#8 ∧ State.reset.sink.currentValue = none

/-! ## The commands -/

/-- 40_frequency.md rules R68, R69 and R71: the whole next state of SET_FREQ. SAMPLE_RATE is never 0 in a run (rules R17 and
R66; EveryStepKeepsLegalStates). -/
def Obligations.SetFreqWritesFrequencyAndIncrement : Prop :=
  ∀ (p : Payload) (s : State), s.block.sampleRate ≠ 0#20 →
    exec (.setFreq p) s = .next
      { s with
        block :=
          { s.block with
            freq := BitVec.ofNat 25 (max 100 (min p.toNat 20000000))
            phaseInc := BitVec.ofNat 16
              (max 100 (min p.toNat 20000000) * 65536 / (1000 * s.block.sampleRate.toNat)) }
        trace := s.trace ++
          (if p.toNat < 100 ∨ 20000000 < p.toNat then [.event .valueClamped] else []) }

/-- 42_engine.md rule R89 with PAY = 0: the whole next state of START with no sample rate. -/
def Obligations.StartWithoutRateSetsRunAlone : Prop :=
  ∀ s : State, exec (.start 0#28) s = .next { s with block := { s.block with run := .running } }

/-- Rules R89, R70 and R71: the whole next state of START with a sample rate. -/
def Obligations.StartWithRateWritesRateIncrementAndRun : Prop :=
  ∀ (p : Payload) (s : State), p ≠ 0#28 →
    exec (.start p) s = .next
      { s with
        block :=
          { s.block with
            sampleRate := BitVec.ofNat 20 (min p.toNat 1000000)
            phaseInc := BitVec.ofNat 16 (s.block.freq.toNat * 65536 / (1000 * min p.toNat 1000000))
            run := .running }
        trace := s.trace ++ (if 1000000 < p.toNat then [.event .valueClamped] else []) }

/-- Rule R90: the whole next state of STOP. -/
def Obligations.StopClearsRunAlone : Prop :=
  ∀ s : State, exec .stop s = .next { s with block := { s.block with run := .stopped } }

/-- Rules R91, R85 and R55: the whole next state of SET_WAVE. -/
def Obligations.SetWaveSelectsTheCodeOrSine : Prop :=
  ∀ (p : Payload) (s : State),
    exec (.setWave p) s = .next
      { s with
        block := { s.block with waveSel := BitVec.ofNat 2 (if p.toNat < 4 then p.toNat else 0) }
        trace := s.trace ++ (if p.toNat < 4 then [] else [.event .unknownWaveform]) }

/-- 60_exceptions.md rule R105: a word that spells no command sets CMD_ERR and records its event (with the word, rule R11),
and nothing else changes; CMD_ERR stays 1 under every operation but RST; a run that presents an illegal word is never free of
faults again. -/
def Obligations.IllegalWordSetsCmdErrForGood : Prop :=
  (∀ (w : Word) (s : State), decode (.cmd w) = .illegal w →
    exec (.illegal w) s = .next
      { s with
        block := { s.block with cmdErr := true }
        trace := s.trace ++ [.event (.illegalCommand w)] }) ∧
  (∀ (i : Instr) (s t : State), i ≠ .rst → exec i s = .next t → s.block.cmdErr = true → t.block.cmdErr = true) ∧
  ∀ (is : List Instr) (w : Word) (s t : State), decode (.cmd w) = .illegal w → Instr.illegal w ∈ is →
    execAll is s = .next t → t.faultFree = false

/-! ## The read port -/

/-- 20_memory.md rules R33 and R34: the word of every read address, and that RD changes nothing but what is observed. -/
def Obligations.ReadReturnsTheWordAtItsAddress : Prop :=
  ∀ (a : Byte) (s : State), ∃ w : Word,
    exec (.rd a) s = .next { s with trace := s.trace ++ [.reply a w] } ∧
    (a.toNat = 0 → w.toNat =
      16 * s.block.waveSel.toNat + 4 * s.block.sinkFault.toNat + 2 * s.block.cmdErr.toNat +
        (if s.block.run = .running then 1 else 0)) ∧
    (a.toNat = 1 → w.toNat = s.block.freq.toNat) ∧
    (a.toNat = 2 → w.toNat = s.block.sampleRate.toNat) ∧
    (a.toNat = 3 → w.toNat = s.block.phaseAcc.toNat) ∧
    (a.toNat = 4 → w.toNat = s.block.phaseInc.toNat) ∧
    (5 ≤ a.toNat → w.toNat = 0)

/-- 10_state.md rule R25: the fields of STATUS at read address 0, its reserved bits, and its reset value. -/
def Obligations.StatusBitsAreTheFlags : Prop :=
  ∀ b : Block,
    b.status.getLsbD 0 = decide (b.run = .running) ∧ b.status.getLsbD 1 = b.cmdErr ∧
    b.status.getLsbD 2 = b.sinkFault ∧ b.status.getLsbD 3 = false ∧
    b.status.extractLsb' 4 2 = b.waveSel ∧ (∀ i : Nat, 6 ≤ i → b.status.getLsbD i = false) ∧
    b.readPort 0x00#8 = b.status ∧
    Block.reset.status = 0x00000000#32

/-- Rule R35: any number of reads leaves every register, the sink and the agents as they were, and each returns what the
first state holds at its address, so a repeated read returns the same word. -/
def Obligations.ReadsHaveNoSideEffects : Prop :=
  ∀ (addrs : List Byte) (s : State), ∃ t,
    execAll (addrs.map .rd) s = .next t ∧ t.block = s.block ∧ t.sink = s.sink ∧ t.env = s.env ∧
    t.replies = s.replies ++ addrs.map s.block.readPort

/-! ## The tick -/

/-- 42_engine.md rule R93 with RUN = 0: no effect at all. -/
def Obligations.TickWhileStoppedDoesNothing : Prop :=
  ∀ s : State, s.block.run = .stopped → exec .tick s = .next s

/-- Rules R93, R73, R86, R97 and R106: the whole next state of a TICK with RUN = 1, for each answer the sink can give. The
answer is the next scripted one, or a free value. -/
def Obligations.RunningTickTakesOneSample : Prop :=
  ∀ s : State, s.block.run = .running →
    ∃ (ans : SinkAnswer) (env : Env),
      ((s.env.sinkAnswers = ans :: env.sinkAnswers ∧ env = { s.env with sinkAnswers := env.sinkAnswers }) ∨
       (s.env.sinkAnswers = [] ∧ ans = Config.freeSinkAnswer s.env.draws ∧
          env = { s.env with draws := s.env.draws + 1 })) ∧
      ∀ (acc : PhaseBits) (v c : Byte),
        acc.toNat = (s.block.phaseAcc.toNat + s.block.phaseInc.toNat) % 65536 →
        v = romRead s.block.waveSel (BitVec.ofNat 8 (acc.toNat / 256)) →
        c.toNat = clamp v.toNat s.sink.lo.toNat s.sink.hi.toNat →
        exec .tick s = .next
          (match ans with
          | .ok =>
            { block := { s.block with phaseAcc := acc }
              sink := { s.sink with currentValue := some c, emitted := s.sink.emitted ++ [c] }
              env := env
              trace := s.trace ++ [.sinkwr v .ok] }
          | .failKept =>
            { block := { s.block with phaseAcc := acc, sinkFault := true }
              sink := s.sink
              env := env
              trace := s.trace ++ [.sinkwr v .fail, .event .deviceWriteFailure] }
          | .failStored =>
            { block := { s.block with phaseAcc := acc, sinkFault := true }
              sink := { s.sink with currentValue := some c }
              env := env
              trace := s.trace ++ [.sinkwr v .fail, .event .deviceWriteFailure] })

/-- 30_encoding.md rule R61: exactly one SINKWR per TICK performed with RUN = 1, and no other. -/
def Obligations.OneSinkwrPerRunningTickAndNoOther : Prop :=
  ∀ (i : Instr) (s t : State), exec i s = .next t →
    ∃ ws : List (Byte × SinkResp), t.sinkWrites = s.sinkWrites ++ ws ∧
      ws.length = if i = .tick ∧ s.block.run = .running then 1 else 0

/-- 40_frequency.md rule R75: the n-tick law, for any operations that leave the increment alone, and the index that each
TICK uses. -/
def Obligations.PhaseAfterTicksFollowsTheTickLaw : Prop :=
  (∀ (is : List Instr) (s : State), (∀ i ∈ is, mayWriteIncrement i = false) →
    ∃ t, execAll is s = .next t ∧ t.block.phaseInc = s.block.phaseInc ∧
      t.block.phaseAcc.toNat =
        (s.block.phaseAcc.toNat + effectiveTicks s.block.run is * s.block.phaseInc.toNat) % 65536) ∧
  ∀ s t : State, s.block.run = .running → exec .tick s = .next t →
    s.block.nextPhase.1.toNat = t.block.phaseAcc.toNat / 256 ∧ s.block.nextPhase.1.toNat ≤ 255

/-- Rules R75, R86 and R93: the samples of n ticks in a row are the entries of the active table at the indices of the n-tick
law, in order, one each. -/
def Obligations.TicksSendTheSampleSequence : Prop :=
  ∀ (n : Nat) (s : State), s.block.run = .running →
    ∃ t, execAll (List.replicate n .tick) s = .next t ∧
      t.samples = s.samples ++ (List.range n).map fun j =>
        romRead s.block.waveSel
          (BitVec.ofNat 8 ((s.block.phaseAcc.toNat + (j + 1) * s.block.phaseInc.toNat) % 65536 / 256))

/-- Rules R43 and R44: a TICK after a change of frequency, rate or waveform uses the new value. -/
def Obligations.ChangesAreSeenByTheNextTick : Prop :=
  ∀ (p : Payload) (s t : State),
    (s.block.run = .running → s.block.sampleRate ≠ 0#20 → execAll [.setFreq p, .tick] s = .next t →
      t.block.phaseAcc.toNat =
        (s.block.phaseAcc.toNat +
          max 100 (min p.toNat 20000000) * 65536 / (1000 * s.block.sampleRate.toNat)) % 65536) ∧
    (p ≠ 0#28 → execAll [.start p, .tick] s = .next t →
      t.block.phaseAcc.toNat =
        (s.block.phaseAcc.toNat + s.block.freq.toNat * 65536 / (1000 * min p.toNat 1000000)) % 65536) ∧
    (s.block.run = .running → execAll [.setWave p, .tick] s = .next t →
      t.samples = s.samples ++
        [romRead (BitVec.ofNat 2 (if p.toNat < 4 then p.toNat else 0)) (phaseIndex t.block.phaseAcc)])

/-! ## The scaler and the accumulator -/

/-- Rule R72: the bounds of the scaler's intermediates, and that every datapath of at least 41 bits gives the exact
quotient. -/
def Obligations.ScalerDatapathOf41BitsIsExact : Prop :=
  ∀ b : Block, b.Legal →
    b.freq.toNat * 65536 < 2 ^ 41 ∧ 1000 * b.sampleRate.toNat < 2 ^ 30 ∧
    scaledIncrement b.freq b.sampleRate < 2 ^ 31 ∧
    ∀ w : Nat, 41 ≤ w →
      (scaledIncrementIn w b.freq b.sampleRate).toNat = b.freq.toNat * 65536 / (1000 * b.sampleRate.toNat)

/-- Rule R71 and 90_conflicts.md C1: reducing the increment to 16 bits does not change the phase sequence. -/
def Obligations.ReducedIncrementGivesTheUnreducedPhase : Prop :=
  ∀ b : Block, b.Legal →
    b.nextPhase.2.phaseAcc.toNat =
      (b.phaseAcc.toNat + b.freq.toNat * 65536 / (1000 * b.sampleRate.toNat)) % 65536

/-- Rule R76: with RUN = 1 PHASE_ACC wraps PHASE_INC times in every 65536 TICKs and is back where it was, so the synthesised
frequency is `PHASE_INC * SAMPLE_RATE / 65536` Hz; and after SET_FREQ or a START with a sample rate that leaves FREQ below the
sample rate, it is at most the requested one and short of it by less than one step of the increment. -/
def Obligations.SynthesisedFrequencyIsWithinOneStepBelow : Prop :=
  (∀ (m : Nat) (s : State), s.block.run = .running →
    tickWraps (65536 * m) s = m * s.block.phaseInc.toNat ∧
    ∃ t, execAll (List.replicate (65536 * m) .tick) s = .next t ∧ t.block.phaseAcc = s.block.phaseAcc) ∧
  (∀ (p : Payload) (s : State), s.block.sampleRate ≠ 0#20 →
    ∃ t, exec (.setFreq p) s = .next t ∧ t.block.freq.toNat = max 100 (min p.toNat 20000000) ∧
      t.block.sampleRate = s.block.sampleRate ∧
      (t.block.freq.toNat < 1000 * t.block.sampleRate.toNat →
        1000 * (t.block.phaseInc.toNat * t.block.sampleRate.toNat) ≤ t.block.freq.toNat * 65536 ∧
        t.block.freq.toNat * 65536 < 1000 * ((t.block.phaseInc.toNat + 1) * t.block.sampleRate.toNat))) ∧
  ∀ (p : Payload) (s : State), p ≠ 0#28 →
    ∃ t, exec (.start p) s = .next t ∧ t.block.freq = s.block.freq ∧
      t.block.sampleRate.toNat = min p.toNat 1000000 ∧
      (t.block.freq.toNat < 1000 * t.block.sampleRate.toNat →
        1000 * (t.block.phaseInc.toNat * t.block.sampleRate.toNat) ≤ t.block.freq.toNat * 65536 ∧
        t.block.freq.toNat * 65536 < 1000 * ((t.block.phaseInc.toNat + 1) * t.block.sampleRate.toNat))

/-- Rule R74: only a TICK with RUN = 1 and RST move the phase, so no command does, and STOP then START resumes from it. -/
def Obligations.NoCommandMovesThePhase : Prop :=
  (∀ (i : Instr) (s t : State), i ≠ .tick ∨ s.block.run = .stopped → i ≠ .rst → exec i s = .next t →
    t.block.phaseAcc = s.block.phaseAcc) ∧
  ∀ (p : Payload) (s t : State), execAll [.stop, .start p] s = .next t →
    t.block.phaseAcc = s.block.phaseAcc ∧ t.block.run = .running

/-! ## Whole-machine rules -/

/-- 10_state.md rule R29: which operations may change which register, and that the sink is changed by a TICK alone. -/
def Obligations.RegistersChangeOnlyByTheirWriters : Prop :=
  ∀ (i : Instr) (s t : State), exec i s = .next t →
    (t.block.freq ≠ s.block.freq → (∃ p, i = .setFreq p) ∨ i = .rst) ∧
    (t.block.sampleRate ≠ s.block.sampleRate → (∃ p, i = .start p ∧ p ≠ 0#28) ∨ i = .rst) ∧
    (t.block.phaseAcc ≠ s.block.phaseAcc → (i = .tick ∧ s.block.run = .running) ∨ i = .rst) ∧
    (t.block.phaseInc ≠ s.block.phaseInc →
      (∃ p, i = .setFreq p) ∨ (∃ p, i = .start p ∧ p ≠ 0#28) ∨ i = .rst) ∧
    (t.block.waveSel ≠ s.block.waveSel → (∃ p, i = .setWave p) ∨ i = .rst) ∧
    (t.block.run ≠ s.block.run → (∃ p, i = .start p) ∨ i = .stop ∨ i = .rst) ∧
    (t.block.cmdErr ≠ s.block.cmdErr → (∃ w, i = .illegal w) ∨ i = .rst) ∧
    (t.block.sinkFault ≠ s.block.sinkFault → (i = .tick ∧ s.block.run = .running) ∨ i = .rst) ∧
    (t.sink ≠ s.sink ∨ t.env ≠ s.env → i = .tick ∧ s.block.run = .running)

/-- 42_engine.md rule R87: the run state after each operation, and TRIG_ARM and TRIG_RATE with it (10_state.md rule R22). -/
def Obligations.RunFollowsTheStateMachine : Prop :=
  ∀ (i : Instr) (s t : State), exec i s = .next t →
    (t.block.run =
      match i with
      | .setFreq _ => s.block.run
      | .setWave _ => s.block.run
      | .start _ => .running
      | .stop => .stopped
      | .illegal _ => s.block.run
      | .rd _ => s.block.run
      | .tick => s.block.run
      | .rst => .stopped) ∧
    (t.block.trigArm = true ↔ t.block.run = .running) ∧ t.block.trigRate = t.block.sampleRate

/-- Rules R23, R24 and R28: each sticky flag is set by its own cause alone, and only RST clears it. -/
def Obligations.StickyFlagsAreSetByTheirCauseAlone : Prop :=
  ∀ (i : Instr) (s t : State), i ≠ .rst → exec i s = .next t →
    (t.block.cmdErr = true ↔ s.block.cmdErr = true ∨ ∃ w, i = .illegal w) ∧
    (t.block.sinkFault = true ↔
      s.block.sinkFault = true ∨ ∃ v, t.trace = s.trace ++ [.sinkwr v .fail, .event .deviceWriteFailure])

/-- Rules R102, R103, R104 and R107: the events each operation meets, at most one. A TICK meets DeviceWriteFailure exactly
when its one SINKWR was answered `fail`. -/
def Obligations.EachOperationMeetsItsEvents : Prop :=
  ∀ (i : Instr) (s t : State), exec i s = .next t →
    ∃ es : List Event, t.events = s.events ++ es ∧ es.length ≤ 1 ∧
      match i with
      | .setFreq p => es = if 100 ≤ p.toNat ∧ p.toNat ≤ 20000000 then [] else [.valueClamped]
      | .setWave p => es = if p.toNat < 4 then [] else [.unknownWaveform]
      | .start p => es = if p.toNat ≤ 1000000 then [] else [.valueClamped]
      | .stop => es = []
      | .illegal w => es = [.illegalCommand w]
      | .rd _ => es = []
      | .tick => (es = [.deviceWriteFailure] ∧ ∃ v, t.sinkWrites = s.sinkWrites ++ [(v, .fail)]) ∨
          (es = [] ∧ (t.sinkWrites = s.sinkWrites ∨ ∃ v, t.sinkWrites = s.sinkWrites ++ [(v, .ok)]))
      | .rst => es = []

/-- Rule R39: repeating SET_FREQ, SET_WAVE, STOP or START leaves the state of issuing it once. The observation of the run,
which records both, is the model's (log 7). -/
def Obligations.RepeatedCommandsLeaveTheSameState : Prop :=
  ∀ (i : Instr) (s t u : State),
    ((∃ p, i = .setFreq p) ∨ (∃ p, i = .setWave p) ∨ (∃ p, i = .start p) ∨ i = .stop) →
    exec i s = .next t → exec i t = .next u → u.block = t.block ∧ u.sink = t.sink ∧ u.env = t.env

/-- 20_memory.md rule R45: after a STOP and until a START, the TICKs of any run can be left out without a trace, and the
trigger stays disarmed. -/
def Obligations.NoTickHasAnEffectAfterStop : Prop :=
  ∀ (is : List Instr) (s : State), (∀ p, Instr.start p ∉ is) →
    execAll (.stop :: is) s = execAll (.stop :: is.filter (· ≠ .tick)) s ∧
    ∃ t, execAll (.stop :: is) s = .next t ∧ t.block.run = .stopped ∧ t.block.trigArm = false

/-- 42_engine.md rule R89: any number of STARTs leaves one arming, which one STOP takes away. -/
def Obligations.OneStopDisarmsAfterManyStarts : Prop :=
  ∀ (p : Payload) (ps : List Payload) (s : State), ∃ t u,
    execAll ((p :: ps).map .start) s = .next t ∧ t.block.trigArm = true ∧
    exec .stop t = .next u ∧ u.block.trigArm = false ∧ ∀ v, exec .tick u = .next v → v = u

/-- 43_output_sink.md rule R101 and 70_reset_and_hazards.md rule R129: nothing of the sink or of the agents reaches the
block's registers, but for SINK_FAULT, nor the samples it sends. -/
def Obligations.SinkReachesNothingButSinkFault : Prop :=
  ∀ (i : Instr) (s s' t t' : State), s.block = s'.block → exec i s = .next t → exec i s' = .next t' →
    { t.block with sinkFault := false } = { t'.block with sinkFault := false } ∧
    ∃ vs : List Byte, t.samples = s.samples ++ vs ∧ t'.samples = s'.samples ++ vs

/-! ## Invariants -/

/-- The reset state is legal. -/
def Obligations.ResetStateIsLegal : Prop := State.reset.Legal

/-- Rules R15, R16, R17, R19 and R96: every step, from any legal state, leaves a legal state. -/
def Obligations.EveryStepKeepsLegalStates : Prop :=
  ∀ s t : State, s.Legal → step s = .next t → t.Legal

/-- The same of every state that arises from reset, whatever the agents present between the steps. -/
def Obligations.ReachableStatesAreLegal : Prop := ∀ s : State, Reachable s → s.Legal

/-- Rules R23, R24, R105 and R106: in a reachable state a sticky flag has its event in the history, so a run without faults
has both flags clear. -/
def Obligations.ReachableFlagsHaveTheirEvents : Prop :=
  ∀ s : State, Reachable s →
    (s.block.cmdErr = true → ∃ w, Event.illegalCommand w ∈ s.events) ∧
    (s.block.sinkFault = true → Event.deviceWriteFailure ∈ s.events) ∧
    (s.faultFree = true → s.block.cmdErr = false ∧ s.block.sinkFault = false)

/-- Rules R97 and R99: in a reachable state the sink has forwarded one value for each SINKWR answered `ok`, and has no value
to return only while none was. That the SINKWRs are kept across an RST (log 7) and the list of forwarded values itself (log 20)
are the model's, DEDUCED. -/
def Obligations.ReachableSinkForwardedEachAcceptedSample : Prop :=
  ∀ s : State, Reachable s →
    s.sink.emitted.length = (s.sinkWrites.filter fun w => decide (w.2 = .ok)).length ∧
    (s.sink.currentValue = none → s.sink.emitted = [])

/-- 60_exceptions.md rules R105 and R106: a fault of the run is never cleared, by any step. -/
def Obligations.FaultsOfARunAreNeverCleared : Prop :=
  ∀ s t : State, step s = .next t → t.faultFree = true → s.faultFree = true

/-! ## The waveform ROM -/

/-- 20_memory.md rule R31: the ROM's addresses, each populated, and the bank that the code selects. -/
def Obligations.RomAddressSelectsTheBank : Prop :=
  (∀ (sel : WaveCode) (idx : Byte),
    (romAddr sel idx).toNat = sel.toNat * 256 + idx.toNat ∧ romRead sel idx = (table sel).getD idx.toNat 0#8) ∧
  (∀ a : RomAddr, ∃ sel idx, a = romAddr sel idx) ∧
  rom.length = 1024

/-- 41_waveform_rom.md rules R81, R82 and R83: the square, sawtooth and triangle tables, by index and by ROM address. -/
def Obligations.SquareSawtoothTriangleTables : Prop :=
  ∀ idx : Byte,
    (romRead 1#2 idx).toNat = (if idx.toNat < 128 then 0 else 255) ∧
    (romRead 2#2 idx).toNat = idx.toNat ∧
    (romRead 3#2 idx).toNat = (if idx.toNat < 128 then idx.toNat else 383 - idx.toNat) ∧
    romByte (BitVec.ofNat 10 (0x100 + idx.toNat)) = romRead 1#2 idx ∧
    romByte (BitVec.ofNat 10 (0x200 + idx.toNat)) = romRead 2#2 idx ∧
    romByte (BitVec.ofNat 10 (0x300 + idx.toNat)) = romRead 3#2 idx

/-- Rule R80: the properties the rule gives of the sine table. -/
def Obligations.SineTableProperties : Prop :=
  (∀ idx : Byte, (romRead 0#2 idx).toNat + (romRead 0#2 (idx + 128#8)).toNat = 256) ∧
  (∀ idx : Byte, 1 ≤ (romRead 0#2 idx).toNat) ∧
  (∀ idx : Byte, (romRead 0#2 idx).toNat = 1 ↔ 189 ≤ idx.toNat ∧ idx.toNat ≤ 195) ∧
  (∀ idx : Byte, (romRead 0#2 idx).toNat = 255 ↔ 61 ≤ idx.toNat ∧ idx.toNat ≤ 67) ∧
  ((table 0#2).map BitVec.toNat).sum = 32768

/-- Rule R80: every entry of the sine table is the integer nearest to `128 + 127 sin(2 pi i / 256)`, with no tie. -/
def Obligations.SineTableIsTheRoundedSine : Prop :=
  ∀ idx : Byte,
    |(128 + 127 * Real.sin (2 * Real.pi * (idx.toNat : ℝ) / 256)) - ((romRead 0#2 idx).toNat : ℝ)| < 1 / 2

/-! ## The sink and the trigger -/

/-- 43_output_sink.md rule R98: the whole effect of SetAmplitude; the block is not touched. -/
def Obligations.SetAmplitudeSetsTheRange : Prop :=
  ∀ (a : Nat) (s s' : State), s.accept = some (.sink (.setAmplitude a), s') →
    step s = .next
      { s' with
        sink := { s'.sink with lo := 0#8, hi := BitVec.ofNat 8 ((255 * min a 1000 + 500) / 1000) }
        trace := s'.trace ++ (if 1000 < a then [.event .valueClamped] else []) }

/-- Rule R99: GetValue returns the last value written, or no value, and changes nothing. -/
def Obligations.GetValueReturnsTheLastValue : Prop :=
  ∀ s s' : State, s.accept = some (.sink .getValue, s') →
    step s = .next { s' with trace := s'.trace ++ [.sinkRead s.sink.currentValue] }

/-- Rule R97: what the sink forwards stays in its range, and inside the range a sample passes unchanged. -/
def Obligations.SinkForwardsInsideItsRange : Prop :=
  ∀ (k : Sink) (v : Byte), k.lo.toNat ≤ k.hi.toNat →
    ∃ c : Byte, k.write v .ok = { k with currentValue := some c, emitted := k.emitted ++ [c] } ∧
      k.lo.toNat ≤ c.toNat ∧ c.toNat ≤ k.hi.toNat ∧
      (k.lo.toNat ≤ v.toNat ∧ v.toNat ≤ k.hi.toNat → c = v)

/-- Rule R114 and 90_conflicts.md C3: the trigger's period is one second divided by the sample rate. The unit is the OPEN
parameter `TICK_TIME_UNIT`. -/
def Obligations.TriggerPeriodIsOneOverTheRate : Prop :=
  ∀ b : Block, b.Legal → b.trigPeriod * (b.sampleRate.toNat : Rat) = (Config.tickUnitsPerSecond : Rat)

/-! ## Assembly -/

/-- 30_encoding.md rule R64: the encoding of every line, and the error of every operand that does not fit its field. -/
def Obligations.LinesAssembleToTheirEncoding : Prop :=
  (∀ p : Payload, assembleLine (.setFreq p.toNat) = .ok (encode (.setFreq p)) ∧
    assembleLine (.setWave p.toNat) = .ok (encode (.setWave p)) ∧
    assembleLine (.start p.toNat) = .ok (encode (.start p))) ∧
  (∀ w : Word, assembleLine (.word w.toNat) = .ok (.cmd w)) ∧
  (∀ a : Byte, assembleLine (.rd a.toNat) = .ok (.rd a)) ∧
  (assembleLine .stop = .ok (encode .stop) ∧ assembleLine .tick = .ok .tick ∧ assembleLine .rst = .ok .rst) ∧
  (∀ n : Nat, 2 ^ 28 ≤ n → assembleLine (.setFreq n) = .error .operandTooWide ∧
    assembleLine (.setWave n) = .error .operandTooWide ∧ assembleLine (.start n) = .error .operandTooWide) ∧
  (∀ n : Nat, 2 ^ 32 ≤ n → assembleLine (.word n) = .error .operandTooWide) ∧
  ∀ n : Nat, 256 ≤ n → assembleLine (.rd n) = .error .operandTooWide

/-! ## Tick overrun -/

/-- 70_reset_and_hazards.md rule R128 and decision D17: under every overrun policy the trigger reaches the block only by the
ticks it presents. A tick that falls due with none pending is presented; with one pending it is presented too or not at all.
Which policy does which is the model's (log 25, DESIGN CHOICE). -/
def Obligations.TickOverrunReachesTheBlockOnlyByTicks : Prop :=
  ∀ (o : TickOverrun) (s : State),
    (s.tickFallsDue o).block = s.block ∧ (s.tickFallsDue o).sink = s.sink ∧ (s.tickFallsDue o).trace = s.trace ∧
    (s.env.ticks = 0 → s.tickFallsDue o = s.arrive .triggerTicks) ∧
    (s.env.ticks ≠ 0 → s.tickFallsDue o = if o = .delay then s.arrive .triggerTicks else s) ∧
    (Reachable s → Reachable (s.tickFallsDue o))
end

