-- ==== Sys2Proof/Laws/Decode.lean ====
section
/-! SUPPORT. The two fields of a command word, said once: their numbers, that they are the whole word, and which words a row
of the opcode map hits. -/

namespace Sys2Proof

theorem opOf_toNat (w : Word) : (opOf w).toNat = w.toNat / 2 ^ 28 := by
  have := w.isLt
  simp only [opOf, BitVec.extractLsb'_toNat, Nat.shiftRight_eq_div_pow]
  omega

theorem payOf_toNat (w : Word) : (payOf w).toNat = w.toNat % 2 ^ 28 := by
  simp only [payOf, BitVec.extractLsb'_toNat, Nat.shiftRight_zero]

theorem append_toNat (o : Opcode) (p : Payload) : (o ++ p : Word).toNat = o.toNat * 2 ^ 28 + p.toNat := by
  rw [BitVec.toNat_append, Nat.shiftLeft_eq, Nat.mul_comm, ← Nat.two_pow_add_eq_or_of_lt p.isLt]

@[simp] theorem opOf_append (o : Opcode) (p : Payload) : opOf (o ++ p) = o := by
  have := p.isLt
  apply BitVec.eq_of_toNat_eq
  rw [opOf_toNat, append_toNat]
  omega

@[simp] theorem payOf_append (o : Opcode) (p : Payload) : payOf (o ++ p) = p := by
  have := p.isLt
  apply BitVec.eq_of_toNat_eq
  rw [payOf_toNat, append_toNat]
  omega

/-- A command word is its two fields. -/
theorem opOf_append_payOf (w : Word) : (opOf w ++ payOf w : Word) = w := by
  apply BitVec.eq_of_toNat_eq
  rw [append_toNat, opOf_toNat, payOf_toNat]
  omega

/-- The mask of rule R52's first three rows keeps the opcode and nothing else. -/
theorem opcodeMask_and (w : Word) : w &&& 0xF0000000#32 = (opOf w ++ 0#28 : Word) := by
  have hm : (0xF0000000#32 : Word) = (BitVec.allOnes 4 ++ 0#28 : Word) := by decide
  conv_lhs => rw [← opOf_append_payOf w, hm]
  rw [BitVec.and_append, BitVec.and_allOnes, BitVec.and_zero]

/-- The mask of STOP's row keeps the whole word. -/
theorem wholeMask_and (w : Word) : w &&& 0xFFFFFFFF#32 = w := by
  have hm : (0xFFFFFFFF#32 : Word) = BitVec.allOnes 32 := by decide
  rw [hm, BitVec.and_allOnes]

/-- A word belongs to a row with the opcode mask exactly when its opcode is the row's. -/
theorem opcodeMask_hits (w : Word) (o : Opcode) : w &&& 0xF0000000#32 = (o ++ 0#28 : Word) ↔ opOf w = o := by
  rw [opcodeMask_and]
  constructor
  · intro h
    simpa using congrArg opOf h
  · rintro rfl
    rfl

end Sys2Proof
end

