-- ==== Sys2Proof/Laws/State.lean ====
section
/-! SUPPORT. One lemma per field and update of the registers and of the state, so that no proof unfolds a record update. -/

namespace Sys2Proof.Machine

/-! ## Registers -/

@[simp] theorem Block.setFreq_freq (b : Block) (v : FreqBits) : (b.setFreq v).freq = v := rfl
@[simp] theorem Block.setFreq_sampleRate (b : Block) (v : FreqBits) : (b.setFreq v).sampleRate = b.sampleRate := rfl
@[simp] theorem Block.setFreq_phaseAcc (b : Block) (v : FreqBits) : (b.setFreq v).phaseAcc = b.phaseAcc := rfl
@[simp] theorem Block.setFreq_phaseInc (b : Block) (v : FreqBits) : (b.setFreq v).phaseInc = b.phaseInc := rfl
@[simp] theorem Block.setFreq_waveSel (b : Block) (v : FreqBits) : (b.setFreq v).waveSel = b.waveSel := rfl
@[simp] theorem Block.setFreq_run (b : Block) (v : FreqBits) : (b.setFreq v).run = b.run := rfl
@[simp] theorem Block.setFreq_cmdErr (b : Block) (v : FreqBits) : (b.setFreq v).cmdErr = b.cmdErr := rfl
@[simp] theorem Block.setFreq_sinkFault (b : Block) (v : FreqBits) : (b.setFreq v).sinkFault = b.sinkFault := rfl

@[simp] theorem Block.setSampleRate_freq (b : Block) (v : RateBits) : (b.setSampleRate v).freq = b.freq := rfl
@[simp] theorem Block.setSampleRate_sampleRate (b : Block) (v : RateBits) : (b.setSampleRate v).sampleRate = v := rfl
@[simp] theorem Block.setSampleRate_phaseAcc (b : Block) (v : RateBits) : (b.setSampleRate v).phaseAcc = b.phaseAcc := rfl
@[simp] theorem Block.setSampleRate_phaseInc (b : Block) (v : RateBits) : (b.setSampleRate v).phaseInc = b.phaseInc := rfl
@[simp] theorem Block.setSampleRate_waveSel (b : Block) (v : RateBits) : (b.setSampleRate v).waveSel = b.waveSel := rfl
@[simp] theorem Block.setSampleRate_run (b : Block) (v : RateBits) : (b.setSampleRate v).run = b.run := rfl
@[simp] theorem Block.setSampleRate_cmdErr (b : Block) (v : RateBits) : (b.setSampleRate v).cmdErr = b.cmdErr := rfl
@[simp] theorem Block.setSampleRate_sinkFault (b : Block) (v : RateBits) : (b.setSampleRate v).sinkFault = b.sinkFault := rfl

@[simp] theorem Block.setPhaseAcc_freq (b : Block) (v : PhaseBits) : (b.setPhaseAcc v).freq = b.freq := rfl
@[simp] theorem Block.setPhaseAcc_sampleRate (b : Block) (v : PhaseBits) : (b.setPhaseAcc v).sampleRate = b.sampleRate := rfl
@[simp] theorem Block.setPhaseAcc_phaseAcc (b : Block) (v : PhaseBits) : (b.setPhaseAcc v).phaseAcc = v := rfl
@[simp] theorem Block.setPhaseAcc_phaseInc (b : Block) (v : PhaseBits) : (b.setPhaseAcc v).phaseInc = b.phaseInc := rfl
@[simp] theorem Block.setPhaseAcc_waveSel (b : Block) (v : PhaseBits) : (b.setPhaseAcc v).waveSel = b.waveSel := rfl
@[simp] theorem Block.setPhaseAcc_run (b : Block) (v : PhaseBits) : (b.setPhaseAcc v).run = b.run := rfl
@[simp] theorem Block.setPhaseAcc_cmdErr (b : Block) (v : PhaseBits) : (b.setPhaseAcc v).cmdErr = b.cmdErr := rfl
@[simp] theorem Block.setPhaseAcc_sinkFault (b : Block) (v : PhaseBits) : (b.setPhaseAcc v).sinkFault = b.sinkFault := rfl

@[simp] theorem Block.setPhaseInc_freq (b : Block) (v : PhaseBits) : (b.setPhaseInc v).freq = b.freq := rfl
@[simp] theorem Block.setPhaseInc_sampleRate (b : Block) (v : PhaseBits) : (b.setPhaseInc v).sampleRate = b.sampleRate := rfl
@[simp] theorem Block.setPhaseInc_phaseAcc (b : Block) (v : PhaseBits) : (b.setPhaseInc v).phaseAcc = b.phaseAcc := rfl
@[simp] theorem Block.setPhaseInc_phaseInc (b : Block) (v : PhaseBits) : (b.setPhaseInc v).phaseInc = v := rfl
@[simp] theorem Block.setPhaseInc_waveSel (b : Block) (v : PhaseBits) : (b.setPhaseInc v).waveSel = b.waveSel := rfl
@[simp] theorem Block.setPhaseInc_run (b : Block) (v : PhaseBits) : (b.setPhaseInc v).run = b.run := rfl
@[simp] theorem Block.setPhaseInc_cmdErr (b : Block) (v : PhaseBits) : (b.setPhaseInc v).cmdErr = b.cmdErr := rfl
@[simp] theorem Block.setPhaseInc_sinkFault (b : Block) (v : PhaseBits) : (b.setPhaseInc v).sinkFault = b.sinkFault := rfl

@[simp] theorem Block.setWaveSel_freq (b : Block) (v : WaveCode) : (b.setWaveSel v).freq = b.freq := rfl
@[simp] theorem Block.setWaveSel_sampleRate (b : Block) (v : WaveCode) : (b.setWaveSel v).sampleRate = b.sampleRate := rfl
@[simp] theorem Block.setWaveSel_phaseAcc (b : Block) (v : WaveCode) : (b.setWaveSel v).phaseAcc = b.phaseAcc := rfl
@[simp] theorem Block.setWaveSel_phaseInc (b : Block) (v : WaveCode) : (b.setWaveSel v).phaseInc = b.phaseInc := rfl
@[simp] theorem Block.setWaveSel_waveSel (b : Block) (v : WaveCode) : (b.setWaveSel v).waveSel = v := rfl
@[simp] theorem Block.setWaveSel_run (b : Block) (v : WaveCode) : (b.setWaveSel v).run = b.run := rfl
@[simp] theorem Block.setWaveSel_cmdErr (b : Block) (v : WaveCode) : (b.setWaveSel v).cmdErr = b.cmdErr := rfl
@[simp] theorem Block.setWaveSel_sinkFault (b : Block) (v : WaveCode) : (b.setWaveSel v).sinkFault = b.sinkFault := rfl

@[simp] theorem Block.setRun_freq (b : Block) (v : RunState) : (b.setRun v).freq = b.freq := rfl
@[simp] theorem Block.setRun_sampleRate (b : Block) (v : RunState) : (b.setRun v).sampleRate = b.sampleRate := rfl
@[simp] theorem Block.setRun_phaseAcc (b : Block) (v : RunState) : (b.setRun v).phaseAcc = b.phaseAcc := rfl
@[simp] theorem Block.setRun_phaseInc (b : Block) (v : RunState) : (b.setRun v).phaseInc = b.phaseInc := rfl
@[simp] theorem Block.setRun_waveSel (b : Block) (v : RunState) : (b.setRun v).waveSel = b.waveSel := rfl
@[simp] theorem Block.setRun_run (b : Block) (v : RunState) : (b.setRun v).run = v := rfl
@[simp] theorem Block.setRun_cmdErr (b : Block) (v : RunState) : (b.setRun v).cmdErr = b.cmdErr := rfl
@[simp] theorem Block.setRun_sinkFault (b : Block) (v : RunState) : (b.setRun v).sinkFault = b.sinkFault := rfl

@[simp] theorem Block.setCmdErr_freq (b : Block) (v : Bool) : (b.setCmdErr v).freq = b.freq := rfl
@[simp] theorem Block.setCmdErr_sampleRate (b : Block) (v : Bool) : (b.setCmdErr v).sampleRate = b.sampleRate := rfl
@[simp] theorem Block.setCmdErr_phaseAcc (b : Block) (v : Bool) : (b.setCmdErr v).phaseAcc = b.phaseAcc := rfl
@[simp] theorem Block.setCmdErr_phaseInc (b : Block) (v : Bool) : (b.setCmdErr v).phaseInc = b.phaseInc := rfl
@[simp] theorem Block.setCmdErr_waveSel (b : Block) (v : Bool) : (b.setCmdErr v).waveSel = b.waveSel := rfl
@[simp] theorem Block.setCmdErr_run (b : Block) (v : Bool) : (b.setCmdErr v).run = b.run := rfl
@[simp] theorem Block.setCmdErr_cmdErr (b : Block) (v : Bool) : (b.setCmdErr v).cmdErr = v := rfl
@[simp] theorem Block.setCmdErr_sinkFault (b : Block) (v : Bool) : (b.setCmdErr v).sinkFault = b.sinkFault := rfl

@[simp] theorem Block.setSinkFault_freq (b : Block) (v : Bool) : (b.setSinkFault v).freq = b.freq := rfl
@[simp] theorem Block.setSinkFault_sampleRate (b : Block) (v : Bool) : (b.setSinkFault v).sampleRate = b.sampleRate := rfl
@[simp] theorem Block.setSinkFault_phaseAcc (b : Block) (v : Bool) : (b.setSinkFault v).phaseAcc = b.phaseAcc := rfl
@[simp] theorem Block.setSinkFault_phaseInc (b : Block) (v : Bool) : (b.setSinkFault v).phaseInc = b.phaseInc := rfl
@[simp] theorem Block.setSinkFault_waveSel (b : Block) (v : Bool) : (b.setSinkFault v).waveSel = b.waveSel := rfl
@[simp] theorem Block.setSinkFault_run (b : Block) (v : Bool) : (b.setSinkFault v).run = b.run := rfl
@[simp] theorem Block.setSinkFault_cmdErr (b : Block) (v : Bool) : (b.setSinkFault v).cmdErr = b.cmdErr := rfl
@[simp] theorem Block.setSinkFault_sinkFault (b : Block) (v : Bool) : (b.setSinkFault v).sinkFault = v := rfl

/-! ## Parts of the state -/

@[simp] theorem State.setBlock_block (s : State) (b : Block) : (s.setBlock b).block = b := rfl
@[simp] theorem State.setBlock_sink (s : State) (b : Block) : (s.setBlock b).sink = s.sink := rfl
@[simp] theorem State.setBlock_env (s : State) (b : Block) : (s.setBlock b).env = s.env := rfl
@[simp] theorem State.setBlock_trace (s : State) (b : Block) : (s.setBlock b).trace = s.trace := rfl

@[simp] theorem State.setSink_block (s : State) (k : Sink) : (s.setSink k).block = s.block := rfl
@[simp] theorem State.setSink_sink (s : State) (k : Sink) : (s.setSink k).sink = k := rfl
@[simp] theorem State.setSink_env (s : State) (k : Sink) : (s.setSink k).env = s.env := rfl
@[simp] theorem State.setSink_trace (s : State) (k : Sink) : (s.setSink k).trace = s.trace := rfl

@[simp] theorem State.setEnv_block (s : State) (e : Env) : (s.setEnv e).block = s.block := rfl
@[simp] theorem State.setEnv_sink (s : State) (e : Env) : (s.setEnv e).sink = s.sink := rfl
@[simp] theorem State.setEnv_env (s : State) (e : Env) : (s.setEnv e).env = e := rfl
@[simp] theorem State.setEnv_trace (s : State) (e : Env) : (s.setEnv e).trace = s.trace := rfl

@[simp] theorem State.record_block (s : State) (o : Obs) : (s.record o).block = s.block := rfl
@[simp] theorem State.record_sink (s : State) (o : Obs) : (s.record o).sink = s.sink := rfl
@[simp] theorem State.record_env (s : State) (o : Obs) : (s.record o).env = s.env := rfl
@[simp] theorem State.record_trace (s : State) (o : Obs) : (s.record o).trace = s.trace ++ [o] := rfl

end Sys2Proof.Machine
end

