-- ==== Sys2Proof/Laws/Ops.lean ====
section
/-! SUPPORT. What each shared operation does, said once: the clamp, error events, the scaler, the accumulator, the ROM, the
sample write and the reset. -/

namespace Sys2Proof

theorem clamp_mem {lo hi : Nat} (x : Nat) (h : lo ≤ hi) : lo ≤ clamp x lo hi ∧ clamp x lo hi ≤ hi := by
  unfold clamp
  split
  · omega
  · split <;> omega

theorem clamp_of_mem {x lo hi : Nat} (h₁ : lo ≤ x) (h₂ : x ≤ hi) : clamp x lo hi = x := by
  unfold clamp
  rw [if_neg (by omega), if_neg (by omega)]

theorem clamp_eq_self_iff {x lo hi : Nat} (h : lo ≤ hi) : clamp x lo hi = x ↔ lo ≤ x ∧ x ≤ hi :=
  ⟨fun e => e ▸ clamp_mem x h, fun e => clamp_of_mem e.1 e.2⟩

namespace Machine

/-! ## Operands -/

theorem clampFreq_toNat (p : Payload) :
    (clampFreq p).toNat = clamp p.toNat Config.fMinMhz Config.fMaxMhz := by
  have : clamp p.toNat Config.fMinMhz Config.fMaxMhz ≤ 20000000 := (clamp_mem p.toNat (by decide)).2
  simp only [clampFreq, BitVec.toNat_ofNat]
  exact Nat.mod_eq_of_lt (by omega)

theorem clampRate_toNat (p : Payload) :
    (clampRate p).toNat = clamp p.toNat Config.srMin Config.srMax := by
  have : clamp p.toNat Config.srMin Config.srMax ≤ 1000000 := (clamp_mem p.toNat (by decide)).2
  simp only [clampRate, BitVec.toNat_ofNat]
  exact Nat.mod_eq_of_lt (by omega)

theorem clampFreq_mem (p : Payload) : 100 ≤ (clampFreq p).toNat ∧ (clampFreq p).toNat ≤ 20000000 := by
  rw [clampFreq_toNat]
  exact clamp_mem _ (by decide)

theorem clampRate_mem (p : Payload) : 1 ≤ (clampRate p).toNat ∧ (clampRate p).toNat ≤ 1000000 := by
  rw [clampRate_toNat]
  exact clamp_mem _ (by decide)

/-- The clamp keeps the scaler's denominator from being 0 (rule R66). -/
theorem clampRate_ne_zero (p : Payload) : clampRate p ≠ 0#20 := by
  intro h
  have := (clampRate_mem p).1
  rw [h] at this
  exact absurd this (by decide)

/-! ## Error events -/

@[simp] theorem State.meet_block (s : State) (e : Event) : (s.meet e).block = s.block.flagEvent e := rfl
@[simp] theorem State.meet_sink (s : State) (e : Event) : (s.meet e).sink = s.sink := rfl
@[simp] theorem State.meet_env (s : State) (e : Event) : (s.meet e).env = s.env := rfl
@[simp] theorem State.meet_trace (s : State) (e : Event) : (s.meet e).trace = s.trace ++ [.event e] := rfl

@[simp] theorem Block.flagEvent_valueClamped (b : Block) : b.flagEvent .valueClamped = b := rfl
@[simp] theorem Block.flagEvent_unknownWaveform (b : Block) : b.flagEvent .unknownWaveform = b := rfl
@[simp] theorem Block.flagEvent_deviceWriteFailure (b : Block) :
    b.flagEvent .deviceWriteFailure = b.setSinkFault true := rfl
@[simp] theorem Block.flagEvent_illegalCommand (b : Block) (w : Word) :
    b.flagEvent (.illegalCommand w) = b.setCmdErr true := rfl

/-- Everything a conditional event can do to the parts of the state. -/
@[simp] theorem State.meetIf_block (s : State) (c : Bool) (e : Event) :
    (s.meetIf c e).block = if c then s.block.flagEvent e else s.block := by
  cases c <;> rfl
@[simp] theorem State.meetIf_sink (s : State) (c : Bool) (e : Event) : (s.meetIf c e).sink = s.sink := by
  cases c <;> rfl
@[simp] theorem State.meetIf_env (s : State) (c : Bool) (e : Event) : (s.meetIf c e).env = s.env := by
  cases c <;> rfl
@[simp] theorem State.meetIf_trace (s : State) (c : Bool) (e : Event) :
    (s.meetIf c e).trace = s.trace ++ (if c then [.event e] else []) := by
  cases c <;> simp [State.meetIf]

/-! ## Scaler and accumulator -/

theorem scaledIncrement_of_ne_zero {f : FreqBits} {r : RateBits} (h : r ≠ 0#20) :
    scaledIncrement f r = f.toNat * 65536 / (1000 * r.toNat) := if_neg h

theorem Block.updateIncrement_eq {b : Block} (h : b.sampleRate ≠ 0#20) :
    b.updateIncrement = b.setPhaseInc (BitVec.ofNat 16 (b.freq.toNat * 65536 / (1000 * b.sampleRate.toNat))) := by
  rw [Block.updateIncrement, scaledIncrement_of_ne_zero h]

theorem Block.updateIncrement_phaseInc_toNat {b : Block} (h : b.sampleRate ≠ 0#20) :
    b.updateIncrement.phaseInc.toNat = b.freq.toNat * 65536 / (1000 * b.sampleRate.toNat) % 65536 := by
  simp [Block.updateIncrement_eq h]

theorem State.setSampleRate_block (s : State) (p : Payload) :
    (s.setSampleRate p).block = (s.block.setSampleRate (clampRate p)).updateIncrement := by
  simp [State.setSampleRate]

theorem State.setSampleRate_sink (s : State) (p : Payload) : (s.setSampleRate p).sink = s.sink := by
  simp [State.setSampleRate]

theorem State.setSampleRate_env (s : State) (p : Payload) : (s.setSampleRate p).env = s.env := by
  simp [State.setSampleRate]

theorem State.setSampleRate_trace (s : State) (p : Payload) :
    (s.setSampleRate p).trace = s.trace ++ (if rateIsClamped p then [.event .valueClamped] else []) := by
  simp [State.setSampleRate]

theorem phaseIndex_toNat (acc : PhaseBits) : (phaseIndex acc).toNat = acc.toNat / 256 := by
  have := acc.isLt
  simp only [phaseIndex, BitVec.extractLsb'_toNat, Nat.shiftRight_eq_div_pow]
  omega

theorem Block.nextPhase_index (b : Block) : b.nextPhase.1 = phaseIndex b.nextPhase.2.phaseAcc := rfl

theorem Block.nextPhase_block (b : Block) : b.nextPhase.2 = b.setPhaseAcc (b.phaseAcc + b.phaseInc) := rfl

theorem Block.nextPhase_acc_toNat (b : Block) :
    b.nextPhase.2.phaseAcc.toNat = (b.phaseAcc.toNat + b.phaseInc.toNat) % 65536 := rfl

/-! ## ROM -/

theorem romAddr_toNat (sel : WaveCode) (idx : Byte) : (romAddr sel idx).toNat = sel.toNat * 256 + idx.toNat := by
  have := idx.isLt
  simp only [romAddr, BitVec.toNat_append, Nat.shiftLeft_eq]
  rw [show sel.toNat * 2 ^ 8 = 2 ^ 8 * sel.toNat from Nat.mul_comm _ _, ← Nat.two_pow_add_eq_or_of_lt (by omega)]
  omega

theorem sineTable_length : sineTable.length = 256 := by
  have h0 : sineQuarter0.length = 64 := rfl
  have h1 : sineQuarter1.length = 64 := rfl
  have h2 : sineQuarter2.length = 64 := rfl
  have h3 : sineQuarter3.length = 64 := rfl
  simp only [sineTable, List.length_append, h0, h1, h2, h3]

theorem squareTable_length : squareTable.length = 256 := by
  simp only [squareTable, List.length_append, List.length_replicate]

theorem sawtoothTable_length : sawtoothTable.length = 256 := by simp [sawtoothTable]
theorem triangleTable_length : triangleTable.length = 256 := by simp [triangleTable]

/-- Every table has 256 entries (rule R78). -/
theorem table_length (sel : WaveCode) : (table sel).length = 256 := by
  unfold table
  split
  · exact sineTable_length
  · split
    · exact squareTable_length
    · split
      · exact sawtoothTable_length
      · exact triangleTable_length

theorem rom_length : rom.length = 1024 := by simp [rom, table_length]

/-! ## The sample write -/

/-- The answer the sink gives is the scripted one, or the free draw of this point. -/
theorem Env.drawSinkAnswer_cases (e : Env) :
    (∃ a rest, e.sinkAnswers = a :: rest ∧ e.drawSinkAnswer = (a, { e with sinkAnswers := rest })) ∨
    (e.sinkAnswers = [] ∧
      e.drawSinkAnswer = (Config.freeSinkAnswer e.draws, { e with draws := e.draws + 1 })) := by
  unfold Env.drawSinkAnswer
  split
  · exact .inl ⟨_, _, by assumption, rfl⟩
  · exact .inr ⟨by assumption, rfl⟩

/-- A sample write changes the sink by its answer, the draws by one answer, and is observed; the block is untouched. -/
theorem State.sinkWrite_eq (s : State) (v : Byte) :
    s.sinkWrite v =
      (respOf s.env.drawSinkAnswer.1,
        { block := s.block
          sink := s.sink.write v s.env.drawSinkAnswer.1
          env := s.env.drawSinkAnswer.2
          trace := s.trace ++ [.sinkwr v (respOf s.env.drawSinkAnswer.1)] }) := rfl

@[simp] theorem Sink.write_lo (k : Sink) (v : Byte) (a : SinkAnswer) : (k.write v a).lo = k.lo := by cases a <;> rfl
@[simp] theorem Sink.write_hi (k : Sink) (v : Byte) (a : SinkAnswer) : (k.write v a).hi = k.hi := by cases a <;> rfl

/-! ## A sample period -/

/-- The block after a sample period, by the sink's answer. -/
theorem samplePeriod_block (s : State) :
    (samplePeriod s).block =
      match respOf s.env.drawSinkAnswer.1 with
      | .ok => s.block.nextPhase.2
      | .fail => s.block.nextPhase.2.setSinkFault true := by
  simp only [samplePeriod, State.sinkWrite_eq, State.setBlock_env]
  cases respOf s.env.drawSinkAnswer.1 <;> rfl

theorem samplePeriod_sink (s : State) :
    (samplePeriod s).sink =
      s.sink.write (romRead s.block.waveSel s.block.nextPhase.1) s.env.drawSinkAnswer.1 := by
  simp only [samplePeriod, State.sinkWrite_eq, State.setBlock_env]
  cases respOf s.env.drawSinkAnswer.1 <;> rfl

theorem samplePeriod_env (s : State) : (samplePeriod s).env = s.env.drawSinkAnswer.2 := by
  simp only [samplePeriod, State.sinkWrite_eq, State.setBlock_env]
  cases respOf s.env.drawSinkAnswer.1 <;> rfl

theorem samplePeriod_trace (s : State) :
    (samplePeriod s).trace =
      s.trace ++
        .sinkwr (romRead s.block.waveSel s.block.nextPhase.1) (respOf s.env.drawSinkAnswer.1) ::
          (match respOf s.env.drawSinkAnswer.1 with
            | .ok => []
            | .fail => [.event .deviceWriteFailure]) := by
  simp only [samplePeriod, State.sinkWrite_eq, State.setBlock_env]
  cases respOf s.env.drawSinkAnswer.1 <;> simp [Block.nextPhase]

/-! ## Reset -/

/-- The increment that RST computes is the 1638 of rule R121. -/
theorem scaledIncrement_reset : scaledIncrement Config.freqResetMhz Config.srReset = 1638 := by decide

theorem Block.performReset_eq (b : Block) : b.performReset = Block.reset := by
  simp only [Block.performReset, Block.updateIncrement, Block.setFreq, Block.setSampleRate, Block.setPhaseAcc,
    Block.setPhaseInc, Block.setWaveSel, Block.setRun, Block.setCmdErr, Block.setSinkFault, scaledIncrement_reset,
    Block.reset]

end Machine
end Sys2Proof
end

