-- ==== Sys2Proof/Laws/Exec.lean ====
section
/-! SUPPORT. What each operation can do, said once over the shared operations: if it answers a next state, that state is this
one. Proofs about `exec` cite these and unfold no meaning. -/

namespace Sys2Proof.Machine

theorem exec_setFreq_next {pay : Payload} {s t : State} (h : exec (.setFreq pay) s = .next t) :
    t.block = (s.block.setFreq (clampFreq pay)).updateIncrement ∧ t.sink = s.sink ∧ t.env = s.env ∧
      t.trace = s.trace ++ (if freqIsClamped pay then [.event .valueClamped] else []) := by
  simp only [exec, execSetFreq] at h
  injection h with h
  subst h
  simp

theorem exec_setWave_next {pay : Payload} {s t : State} (h : exec (.setWave pay) s = .next t) :
    t.block = s.block.setWaveSel (resolveWave pay) ∧ t.sink = s.sink ∧ t.env = s.env ∧
      t.trace = s.trace ++ (if isWaveCode pay then [] else [.event .unknownWaveform]) := by
  simp only [exec, execSetWave] at h
  injection h with h
  subst h
  cases isWaveCode pay <;> simp

theorem exec_start_next {pay : Payload} {s t : State} (h : exec (.start pay) s = .next t) :
    t.sink = s.sink ∧ t.env = s.env ∧
      ((suppliesRate pay = true ∧
          t.block = ((s.block.setSampleRate (clampRate pay)).updateIncrement).setRun .running ∧
          t.trace = s.trace ++ (if rateIsClamped pay then [.event .valueClamped] else [])) ∨
       (suppliesRate pay = false ∧ t.block = s.block.setRun .running ∧ t.trace = s.trace)) := by
  simp only [exec, execStart] at h
  injection h with h
  subst h
  cases suppliesRate pay <;>
    simp [State.setSampleRate_block, State.setSampleRate_sink, State.setSampleRate_env, State.setSampleRate_trace]

theorem exec_stop_next {s t : State} (h : exec .stop s = .next t) : t = s.setBlock (s.block.setRun .stopped) := by
  simp only [exec, execStop] at h
  injection h with h
  exact h.symm

theorem exec_illegal_next {w : Word} {s t : State} (h : exec (.illegal w) s = .next t) :
    t = s.meet (.illegalCommand w) := by
  simp only [exec, execIllegal] at h
  injection h with h
  exact h.symm

theorem exec_rd_next {a : Byte} {s t : State} (h : exec (.rd a) s = .next t) :
    t = s.record (.reply a (s.block.readPort a)) := by
  simp only [exec, execRd] at h
  injection h with h
  exact h.symm

/-- A TICK does nothing while RUN = 0, and takes one sample while RUN = 1. -/
theorem exec_tick_next {s t : State} (h : exec .tick s = .next t) :
    (s.block.run = .stopped ∧ t = s) ∨ (s.block.run = .running ∧ t = samplePeriod s) := by
  simp only [exec, execTick] at h
  split at h
  · injection h with h
    exact .inl ⟨by assumption, h.symm⟩
  · injection h with h
    exact .inr ⟨by assumption, h.symm⟩

theorem exec_rst_next {s t : State} (h : exec .rst s = .next t) : t = s.setBlock .reset := by
  simp only [exec, execRst, Block.performReset_eq] at h
  injection h with h
  exact h.symm

end Sys2Proof.Machine
end

