-- ==== Sys2Proof/Laws/PerInstr.lean ====
section
/-! SUPPORT. What holds of every operation as syntax, one lemma per constructor. -/

namespace Sys2Proof.Laws.ChannelAgrees

/-- The encoding of an operation stands on the channel of its table row. -/
def Statement (i : Instr) : Prop := (encode i).channel = i.channel

theorem setFreq (pay : Payload) : Statement (.setFreq pay) := rfl
theorem setWave (pay : Payload) : Statement (.setWave pay) := rfl
theorem start (pay : Payload) : Statement (.start pay) := rfl
theorem stop : Statement .stop := rfl
theorem illegal (word : Word) : Statement (.illegal word) := rfl
theorem rd (addr : Byte) : Statement (.rd addr) := rfl
theorem tick : Statement .tick := rfl
theorem rst : Statement .rst := rfl

end Sys2Proof.Laws.ChannelAgrees
end

