-- ==== Sys2Proof/Laws/Safety.lean ====
section
/-! SUPPORT. One operation at a time in a run and in the count of wraps. -/

namespace Sys2Proof.Machine

/-- The rest of a list runs from the next state of its head. -/
theorem execAll_cons_of_next {i : Instr} {s t : State} (h : exec i s = .next t) (is : List Instr) :
    execAll (i :: is) s = execAll is t := by
  rw [execAll, h]

/-- The first TICK wraps or does not, and the rest is counted from its next state. -/
theorem tickWraps_succ_of_next {s t : State} (h : exec .tick s = .next t) (n : Nat) :
    tickWraps (n + 1) s = (if t.block.phaseAcc.toNat < s.block.phaseAcc.toNat then 1 else 0) + tickWraps n t := by
  rw [tickWraps, h]

end Sys2Proof.Machine
end

