-- ==== Sys2Proof/Laws/Schedule.lean ====
section
/-! SUPPORT. What choosing and taking the next request can do, said once. -/

namespace Sys2Proof.Machine

/-- A change of the schedule and the draw counter alone. -/
def Env.SameQueues (e e' : Env) : Prop :=
  e'.host = e.host ∧ e'.ticks = e.ticks ∧ e'.resets = e.resets ∧ e'.sinkAnswers = e.sinkAnswers

theorem Env.firstReady_ready {e : Env} {l rest : List Agent} {a : Agent} (h : e.firstReady l = some (a, rest)) :
    e.ready a = true := by
  induction l with
  | nil => simp [Env.firstReady] at h
  | cons b l ih =>
    simp only [Env.firstReady] at h
    split at h
    · obtain ⟨rfl, -⟩ := Prod.mk.inj (Option.some.inj h)
      assumption
    · exact ih h

theorem Env.ready_of_mem_readyAgents {e : Env} {a : Agent} (h : a ∈ e.readyAgents) : e.ready a = true :=
  (List.mem_filter.mp h).2

/-- The agent chosen is ready, and the choice takes nothing from any agent. -/
theorem Env.chooseAgent_some {e e' : Env} {a : Agent} (h : e.chooseAgent = some (a, e')) :
    e.ready a = true ∧ e.SameQueues e' := by
  unfold Env.chooseAgent at h
  split at h
  · next hf =>
    obtain ⟨rfl, rfl⟩ := Prod.mk.inj (Option.some.inj h)
    exact ⟨Env.firstReady_ready hf, rfl, rfl, rfl, rfl⟩
  · split at h
    · cases h
    · next hr =>
      obtain ⟨rfl, rfl⟩ := Prod.mk.inj (Option.some.inj h)
      exact ⟨Env.ready_of_mem_readyAgents (by simp [hr]), rfl, rfl, rfl, rfl⟩
    · next x y rest hr =>
      obtain ⟨ha, rfl⟩ := Prod.mk.inj (Option.some.inj h)
      refine ⟨Env.ready_of_mem_readyAgents ?_, rfl, rfl, rfl, rfl⟩
      have hlt : Config.freePick e.draws % (x :: y :: rest).length < (x :: y :: rest).length :=
        Nat.mod_lt _ (by simp)
      rw [hr, ← ha]
      simp only [List.getD_eq_getElem?_getD, List.getElem?_eq_getElem hlt, Option.getD_some]
      exact List.getElem_mem hlt

/-- No agent is chosen exactly when none is ready. -/
theorem Env.chooseAgent_none {e : Env} (h : e.chooseAgent = none) (a : Agent) : e.ready a = false := by
  unfold Env.chooseAgent at h
  split at h
  · cases h
  · split at h
    · next hr =>
      have : a ∉ e.readyAgents := by simp [hr]
      cases a <;> simpa [Env.readyAgents, List.mem_filter] using this
    · cases h
    · cases h

/-- A ready agent has something to take. -/
theorem Env.takeFrom_of_ready {e : Env} {a : Agent} (h : e.ready a = true) : ∃ r e', e.takeFrom a = some (r, e') := by
  cases a with
  | host =>
    cases hh : e.host with
    | nil => simp [Env.ready, hh] at h
    | cons r rest => exact ⟨_, _, by simp only [Env.takeFrom, hh]; rfl⟩
  | trigger =>
    cases ht : e.ticks with
    | zero => simp [Env.ready, ht] at h
    | succ n => exact ⟨_, _, by simp only [Env.takeFrom, ht]; rfl⟩
  | platform =>
    cases hr : e.resets with
    | zero => simp [Env.ready, hr] at h
    | succ n => exact ⟨_, _, by simp only [Env.takeFrom, hr]; rfl⟩

/-- What is presented is what the next step accepts, and accepting it leaves the state as it was before. -/
theorem State.accept_present (s : State) (t : Transaction) : (s.present t).accept = some (.block t, s) := by
  cases t <;> rfl

/-- A tick that falls due is a tick presented, or, behind one still pending, nothing. -/
theorem State.tickFallsDue_cases (o : TickOverrun) (s : State) :
    s.tickFallsDue o = s.arrive .triggerTicks ∨ (s.env.ticks ≠ 0 ∧ s.tickFallsDue o = s) := by
  by_cases h : s.env.ticks = 0
  · left
    simp [State.tickFallsDue, Env.tickFallsDue, Env.ready, h, State.arrive]
  · cases o
    · left
      simp [State.tickFallsDue, Env.tickFallsDue, State.arrive]
    · exact .inr ⟨h, by simp [State.tickFallsDue, Env.tickFallsDue, Env.ready, h]; rfl⟩
    · exact .inr ⟨h, by simp [State.tickFallsDue, Env.tickFallsDue, Env.ready, h]; rfl⟩

end Sys2Proof.Machine
end

