-- ==== Sys2Proof/Laws/Sine.lean ====
section
/-! SUPPORT. Rational approximations of the sine at the 256 table points, for the sine table of 41_waveform_rom.md rule R80:
an integer walk round the unit circle and a bound on its error. -/

namespace Sys2Proof.Laws

/-- Bounds on a cosine give bounds on the cosine of half the angle. -/
theorem cos_half_mem {x lo hi l h : ℝ} (hx : 0 ≤ x ∧ x ≤ 2) (hlo : lo ≤ Real.cos x) (hhi : Real.cos x ≤ hi)
    (h0 : 0 ≤ h) (hl : 2 * l^2 ≤ 1 + lo) (hh : 1 + hi ≤ 2 * h^2) : l ≤ Real.cos (x/2) ∧ Real.cos (x/2) ≤ h := by
  have hp := Real.pi_gt_three
  have c0 : 0 ≤ Real.cos (x/2) := Real.cos_nonneg_of_mem_Icc ⟨by linarith, by linarith⟩
  have e : Real.cos x = 2 * Real.cos (x/2)^2 - 1 := by rw [← Real.cos_two_mul]; congr 1; ring
  constructor
  · exact abs_le_of_sq_le_sq' (by nlinarith) c0 |>.2
  · exact abs_le_of_sq_le_sq' (by nlinarith) h0 |>.2

/-- The cosine of one table step, from the cosine of a right angle's half by five halvings. -/
theorem cos_step_mem : (0.99969881869 : ℝ) ≤ Real.cos (Real.pi/128) ∧ Real.cos (Real.pi/128) ≤ 0.99969881870 := by
  have hp := Real.pi_gt_three
  have hp4 := Real.pi_lt_four
  have a0 : (0.7071067811865 : ℝ) ≤ Real.cos (Real.pi/4) ∧ Real.cos (Real.pi/4) ≤ 0.7071067811866 := by
    rw [Real.cos_pi_div_four]
    constructor
    · have : (1.414213562373:ℝ) ≤ √2 := Real.le_sqrt_of_sq_le (by norm_num)
      linarith
    · have : √2 ≤ (1.4142135623732:ℝ) := Real.sqrt_le_iff.mpr (by norm_num)
      linarith
  have a1 : (0.9238795325112 : ℝ) ≤ Real.cos (Real.pi/8) ∧ Real.cos (Real.pi/8) ≤ 0.9238795325114 := by
    have := cos_half_mem (x := Real.pi/4) (l := 0.9238795325112) (h := 0.9238795325114) ⟨by linarith, by linarith⟩ a0.1 a0.2 (by norm_num) (by norm_num) (by norm_num)
    rwa [show Real.pi/4/2 = Real.pi/8 by ring] at this
  have a2 : (0.9807852804032 : ℝ) ≤ Real.cos (Real.pi/16) ∧ Real.cos (Real.pi/16) ≤ 0.9807852804033 := by
    have := cos_half_mem (x := Real.pi/8) (l := 0.9807852804032) (h := 0.9807852804033) ⟨by linarith, by linarith⟩ a1.1 a1.2 (by norm_num) (by norm_num) (by norm_num)
    rwa [show Real.pi/8/2 = Real.pi/16 by ring] at this
  have a3 : (0.9951847266721 : ℝ) ≤ Real.cos (Real.pi/32) ∧ Real.cos (Real.pi/32) ≤ 0.9951847266723 := by
    have := cos_half_mem (x := Real.pi/16) (l := 0.9951847266721) (h := 0.9951847266723) ⟨by linarith, by linarith⟩ a2.1 a2.2 (by norm_num) (by norm_num) (by norm_num)
    rwa [show Real.pi/16/2 = Real.pi/32 by ring] at this
  have a4 : (0.9987954562051 : ℝ) ≤ Real.cos (Real.pi/64) ∧ Real.cos (Real.pi/64) ≤ 0.9987954562052 := by
    have := cos_half_mem (x := Real.pi/32) (l := 0.9987954562051) (h := 0.9987954562052) ⟨by linarith, by linarith⟩ a3.1 a3.2 (by norm_num) (by norm_num) (by norm_num)
    rwa [show Real.pi/32/2 = Real.pi/64 by ring] at this
  have a5 : (0.9996988186961 : ℝ) ≤ Real.cos (Real.pi/128) ∧ Real.cos (Real.pi/128) ≤ 0.9996988186963 := by
    have := cos_half_mem (x := Real.pi/64) (l := 0.9996988186961) (h := 0.9996988186963) ⟨by linarith, by linarith⟩ a4.1 a4.2 (by norm_num) (by norm_num) (by norm_num)
    rwa [show Real.pi/64/2 = Real.pi/128 by ring] at this
  exact ⟨by linarith [a5.1], by linarith [a5.2]⟩

/-- The sine of one table step. -/
theorem sin_step_mem : (0.024541228 : ℝ) ≤ Real.sin (Real.pi/128) ∧ Real.sin (Real.pi/128) ≤ 0.02454123 := by
  obtain ⟨h1, h2⟩ := cos_step_mem
  have hp := Real.pi_gt_three
  have s0 : 0 ≤ Real.sin (Real.pi/128) := Real.sin_nonneg_of_mem_Icc ⟨by linarith, by linarith⟩
  have e := Real.sin_sq_add_cos_sq (Real.pi/128)
  constructor
  · exact abs_le_of_sq_le_sq' (by nlinarith) s0 |>.2
  · exact abs_le_of_sq_le_sq' (by nlinarith) (by norm_num) |>.2

/-- The points of the unit circle one table step apart, in billionths, each from the one before by one rounded rotation. -/
def sineWalk : Nat → Int × Int
  | 0 => (1000000000, 0)
  | n + 1 =>
    let w := sineWalk n
    ((w.1 * 999698819 - w.2 * 24541229) / 1000000000, (w.1 * 24541229 + w.2 * 999698819) / 1000000000)

/-- A point of the walk as a complex number. -/
noncomputable def walkPoint (w : Int × Int) : ℂ := ⟨(w.1 : ℝ) / 1000000000, (w.2 : ℝ) / 1000000000⟩

/-- Floor division loses at most one. -/
theorem abs_ediv_sub_le (a : Int) : |((a / 1000000000 : Int) : ℝ) - (a : ℝ) / 1000000000| ≤ 1 := by
  have h1 : a / 1000000000 * 1000000000 ≤ a := Int.ediv_mul_le a (by norm_num)
  have h2 : a < (a / 1000000000 + 1) * 1000000000 := Int.lt_ediv_add_one_mul_self a (by norm_num)
  have h1' : ((a / 1000000000 : Int) : ℝ) * 1000000000 ≤ a := by exact_mod_cast h1
  have h2' : (a : ℝ) < (((a / 1000000000 : Int) : ℝ) + 1) * 1000000000 := by exact_mod_cast h2
  rw [abs_le]; constructor <;> linarith

/-- The walk stays within ten billionths a step of the true points. -/
theorem norm_exp_sub_walk_le (n : Nat) : n ≤ 255 → ‖Complex.exp ((n : ℂ) * (Real.pi/128 : ℝ) * Complex.I) - walkPoint (sineWalk n)‖ ≤ 10 * n / 1000000000 := by
  induction n with
  | zero =>
    intro _
    have : walkPoint (sineWalk 0) = 1 := by apply Complex.ext <;> simp [walkPoint, sineWalk]
    simp [this]
  | succ n ih =>
    intro hn
    have ih := ih (by omega)
    set z := Complex.exp ((Real.pi/128 : ℝ) * Complex.I) with hz
    set w := walkPoint (sineWalk n) with hw
    have e1 : Complex.exp (((n + 1 : Nat) : ℂ) * (Real.pi/128 : ℝ) * Complex.I) = z * Complex.exp ((n : ℂ) * (Real.pi/128 : ℝ) * Complex.I) := by
      rw [hz, ← Complex.exp_add]; congr 1; push_cast; ring
    set u := Complex.exp ((n : ℂ) * (Real.pi/128 : ℝ) * Complex.I) with hu
    have nz : ‖z‖ = 1 := by rw [hz]; exact Complex.norm_exp_ofReal_mul_I _
    have nu : ‖u‖ = 1 := by
      have : ((n : ℂ) * (Real.pi/128 : ℝ) * Complex.I) = (((n : ℝ) * (Real.pi/128) : ℝ) : ℂ) * Complex.I := by push_cast; ring
      rw [hu, this]; exact Complex.norm_exp_ofReal_mul_I _
    have hnr : (n : ℝ) ≤ 255 := by exact_mod_cast (by omega : n ≤ 255)
    have nw : ‖w‖ ≤ 1.5 := by
      have := norm_sub_norm_le w u
      have h2 : ‖w - u‖ ≤ 10 * n / 1000000000 := by rw [norm_sub_rev]; exact ih
      have : 10 * (n:ℝ) / 1000000000 ≤ 0.5 := by rw [div_le_iff₀ (by norm_num)]; linarith
      linarith
    have key : ‖z * w - walkPoint (sineWalk (n+1))‖ ≤ 10 / 1000000000 := by
      have hre := Complex.abs_re_le_norm w
      have him := Complex.abs_im_le_norm w
      refine (Complex.norm_le_abs_re_add_abs_im _).trans ?_
      have zre : z.re = Real.cos (Real.pi/128) := by rw [hz]; exact Complex.exp_ofReal_mul_I_re _
      have zim : z.im = Real.sin (Real.pi/128) := by rw [hz]; exact Complex.exp_ofReal_mul_I_im _
      obtain ⟨c1, c2⟩ := cos_step_mem
      obtain ⟨d1, d2⟩ := sin_step_mem
      have wre : w.re = ((sineWalk n).1 : ℝ) / 1000000000 := rfl
      have wim : w.im = ((sineWalk n).2 : ℝ) / 1000000000 := rfl
      have r1 := abs_ediv_sub_le ((sineWalk n).1 * 999698819 - (sineWalk n).2 * 24541229)
      have r2 := abs_ediv_sub_le ((sineWalk n).1 * 24541229 + (sineWalk n).2 * 999698819)
      push_cast at r1 r2
      set P := (((sineWalk n).1 * 999698819 - (sineWalk n).2 * 24541229) / 1000000000 : Int)
      set Q := (((sineWalk n).1 * 24541229 + (sineWalk n).2 * 999698819) / 1000000000 : Int)
      have tre : (walkPoint (sineWalk (n+1))).re = (P : ℝ) / 1000000000 := rfl
      have tim : (walkPoint (sineWalk (n+1))).im = (Q : ℝ) / 1000000000 := rfl
      simp only [Complex.sub_re, Complex.sub_im, Complex.mul_re, Complex.mul_im, zre, zim, tre, tim]
      rw [abs_le] at hre him r1 r2
      have A : ((sineWalk n).1 : ℝ) = w.re * 1000000000 := by rw [wre]; ring
      have B : ((sineWalk n).2 : ℝ) = w.im * 1000000000 := by rw [wim]; ring
      rw [A, B] at r1 r2
      have a1 : |Real.cos (Real.pi/128) * w.re - Real.sin (Real.pi/128) * w.im - (P:ℝ)/1000000000| ≤ 5/1000000000 := by
        have p1 : |(Real.cos (Real.pi/128) - 0.999698819) * w.re| ≤ 1e-9 * 1.5 := by
          rw [abs_mul]; exact mul_le_mul (by rw [abs_le]; constructor <;> linarith) (by rw [abs_le]; constructor <;> linarith) (abs_nonneg _) (by norm_num)
        have p2 : |(Real.sin (Real.pi/128) - 0.024541229) * w.im| ≤ 1e-9 * 1.5 := by
          rw [abs_mul]; exact mul_le_mul (by rw [abs_le]; constructor <;> linarith) (by rw [abs_le]; constructor <;> linarith) (abs_nonneg _) (by norm_num)
        rw [abs_le] at p1 p2 ⊢
        constructor <;> linarith
      have a2 : |Real.cos (Real.pi/128) * w.im + Real.sin (Real.pi/128) * w.re - (Q:ℝ)/1000000000| ≤ 5/1000000000 := by
        have p1 : |(Real.cos (Real.pi/128) - 0.999698819) * w.im| ≤ 1e-9 * 1.5 := by
          rw [abs_mul]; exact mul_le_mul (by rw [abs_le]; constructor <;> linarith) (by rw [abs_le]; constructor <;> linarith) (abs_nonneg _) (by norm_num)
        have p2 : |(Real.sin (Real.pi/128) - 0.024541229) * w.re| ≤ 1e-9 * 1.5 := by
          rw [abs_mul]; exact mul_le_mul (by rw [abs_le]; constructor <;> linarith) (by rw [abs_le]; constructor <;> linarith) (abs_nonneg _) (by norm_num)
        rw [abs_le] at p1 p2 ⊢
        constructor <;> linarith
      linarith
    rw [e1]
    have : z * u - walkPoint (sineWalk (n+1)) = z * (u - w) + (z * w - walkPoint (sineWalk (n+1))) := by ring
    rw [this]
    refine (norm_add_le _ _).trans ?_
    rw [norm_mul, nz, one_mul]
    push_cast; linarith

end Sys2Proof.Laws
end

