-- ==== Sys2Proof/Tests/Slice0.lean ====
section
/-! SUPPORT. Small tests, each expected result taken from 95_test_vectors.md or from the rule named; and, for every statement
with hypotheses, a state and operands that meet them together. -/

namespace Sys2Proof.Tests
open Sys2Proof.Machine

/-- The outcome is a next state with the property. -/
def after (o : Host.Outcome State Fault Refusal) (p : State → Bool) : Bool :=
  match o with
  | .next t => p t
  | .fault _ => false
  | .refused _ => false

/-- The reset state with other registers and the sink's next answers given. -/
def withBlock (b : Block) (answers : List SinkAnswer) : State :=
  { State.reset with block := b, env := { Env.reset with sinkAnswers := answers } }

/-- Reset, then RUN = 1. -/
def running : Block := { Block.reset with run := .running }

/-! ## Well-formedness: each check refuses an ill-formed term -/

theorem test_wellFormed_refuses_a_setFreq_word : (Instr.illegal 0x100F4240#32).wellFormed = false := by decide
theorem test_wellFormed_refuses_a_setWave_word : (Instr.illegal 0x20000009#32).wellFormed = false := by decide
theorem test_wellFormed_refuses_a_start_word : (Instr.illegal 0x30000000#32).wellFormed = false := by decide
theorem test_wellFormed_refuses_the_stop_word : (Instr.illegal 0x40000000#32).wellFormed = false := by decide
theorem test_wellFormed_admits_a_nonzero_stop_payload : (Instr.illegal 0x40000001#32).wellFormed = true := by decide

/-! ## Decoding: words written out bit by bit from rules R50 and R52 (OP, then seven nibbles of PAY) -/

theorem test_decode_setFreq :
    decode (.cmd 0b0001_0000_0000_1111_0100_0010_0100_0000#32) = .setFreq 1000000#28 := by decide
theorem test_decode_setWave :
    decode (.cmd 0b0010_0000_0000_0000_0000_0000_0000_1001#32) = .setWave 9#28 := by decide
theorem test_decode_start :
    decode (.cmd 0b0011_0000_0000_0000_1011_1011_1000_0000#32) = .start 48000#28 := by decide
theorem test_decode_stop :
    decode (.cmd 0b0100_0000_0000_0000_0000_0000_0000_0000#32) = .stop := by decide
theorem test_decode_illegal_stop_payload :
    decode (.cmd 0b0100_1000_0000_0000_0000_0000_0000_0000#32) = .illegal 0x48000000#32 := by decide
theorem test_decode_illegal_zero : decode (.cmd 0#32) = .illegal 0#32 := by decide
theorem test_decode_illegal_ones : decode (.cmd 0xFFFFFFFF#32) = .illegal 0xFFFFFFFF#32 := by decide
theorem test_decode_largest_payload : decode (.cmd 0x1FFFFFFF#32) = .setFreq 268435455#28 := by decide
theorem test_decode_rd : decode (.rd 0xFF#8) = .rd 255#8 := by decide
theorem test_decode_tick : decode .tick = .tick := by decide
theorem test_decode_rst : decode .rst = .rst := by decide
theorem test_decodeTableWord :
    decodeTableWord 32 0x30002710 = some (.start 10000#28) ∧ decodeTableWord 8 0x03 = some (.rd 3#8) ∧
      decodeTableWord 0 0 = some .tick ∧ decodeTableWord 16 0 = none := by decide
theorem test_decodeBytes_both_orders :
    (transactionOfBytes .leastFirst .cmd [0x40#8, 0x42#8, 0x0F#8, 0x10#8]).toOption = some (.cmd 0x100F4240#32) ∧
    (transactionOfBytes .mostFirst .cmd [0x10#8, 0x0F#8, 0x42#8, 0x40#8]).toOption = some (.cmd 0x100F4240#32) := by decide
theorem test_decodeBytes_rejects_by_name :
    decodeBytes .leastFirst .cmd [0x40#8] = .error (.wrongLength .cmd 1) := by rfl

/-! ## Assembly (rules R64 and R65) -/

/-- `RD PHASE_ACC ; x`. -/
theorem test_assemble_named_read :
    (assemble ['R', 'D', ' ', 'P', 'H', 'A', 'S', 'E', '_', 'A', 'C', 'C', ' ', ';', ' ', 'x']).toOption
      = some [.rd 3#8] := by decide
/-- `SET_FREQ_HZ 0.1` is 100 mHz. -/
theorem test_assemble_hertz :
    (assemble ['S', 'E', 'T', '_', 'F', 'R', 'E', 'Q', '_', 'H', 'Z', ' ', '0', '.', '1']).toOption
      = some [.cmd 0x10000064#32] := by decide
/-- `TICK 2`, then `.word 0x50000000`. -/
theorem test_assemble_two_lines :
    (assemble ['T', 'I', 'C', 'K', ' ', '2', '\n', '.', 'w', 'o', 'r', 'd', ' ', '0', 'x', '5', '0', '0', '0', '0', '0', '0',
      '0']).toOption = some [.tick, .tick, .cmd 0x50000000#32] := by decide
theorem test_assemble_too_wide : (assembleLine (.rd 256)).toOption = none := by decide

/-! ## The ROM (rules R80 to R86 and the table of 95_test_vectors.md section 2.3) -/

theorem test_rom_sine : romRead 0#2 6#8 = 147#8 ∧ romRead 0#2 192#8 = 1#8 := by decide
theorem test_rom_square_edge : romRead 1#2 127#8 = 0#8 ∧ romRead 1#2 128#8 = 255#8 := by decide
theorem test_rom_triangle_jump : romRead 3#2 127#8 = 127#8 ∧ romRead 3#2 128#8 = 255#8 := by decide +kernel

/-! ## The operations (95_test_vectors.md sections 2.1 to 2.7) -/

theorem test_setFreq_at_48000 :
    after (exec (.setFreq 12345678#28) (withBlock { Block.reset with sampleRate := 48000#20 } []))
      (fun t => t.block.freq == 12345678#25 && t.block.phaseInc == 16855#16 && t.trace == []) = true := by decide
theorem test_setFreq_clamps_high :
    after (exec (.setFreq 268435455#28) State.reset)
      (fun t => t.block.freq == 20000000#25 && t.block.phaseInc == 32768#16 && t.eventCodes == [1]) = true := by decide
theorem test_setWave_code : after (exec (.setWave 3#28) State.reset) (fun t => t.block.status == 0x30#32) = true := by decide
theorem test_setWave_falls_back :
    after (exec (.setWave 4#28) (withBlock { Block.reset with waveSel := 2#2 } []))
      (fun t => t.block.waveSel == 0#2 && t.eventCodes == [2]) = true := by decide
theorem test_start_keeps_phase :
    after (exec (.start 10000#28) (withBlock { running with phaseAcc := 5000#16 } []))
      (fun t => t.block.sampleRate == 10000#20 && t.block.phaseInc == 6553#16 && t.block.phaseAcc == 5000#16) = true := by
  decide
theorem test_start_clamps_rate :
    after (exec (.start 1000001#28) State.reset)
      (fun t => t.block.sampleRate == 1000000#20 && t.block.phaseInc == 65#16 && t.block.trigArm && t.eventCodes == [1])
      = true := by decide
theorem test_stop : after (exec .stop (withBlock running [])) (fun t => t.block.status == 0#32 && !t.block.trigArm) = true := by
  decide
theorem test_illegal_keeps_run :
    after (exec (.illegal 0#32) (withBlock running [])) (fun t => t.block.status == 3#32 && t.eventCodes == [4]) = true := by
  decide
theorem test_rd_status :
    after (exec (.rd 0#8) (withBlock { running with cmdErr := true, sinkFault := true, waveSel := 3#2 } []))
      (fun t => t.replies == [0x37#32]) = true := by decide
theorem test_rd_reserved : after (exec (.rd 5#8) State.reset) (fun t => t.replies == [0#32]) = true := by decide
theorem test_tick_ok :
    after (exec .tick (withBlock running [.ok]))
      (fun t => t.block.phaseAcc == 1638#16 && t.sinkWrites == [(147#8, .ok)] && t.sink.currentValue == some 147#8
        && t.eventCodes == []) = true := by decide
theorem test_tick_fail_wraps :
    after (exec .tick (withBlock { running with phaseAcc := 65000#16 } [.failKept]))
      (fun t => t.block.phaseAcc == 1102#16 && t.block.status == 5#32 && t.sink.currentValue == none
        && t.eventCodes == [3]) = true := by decide
theorem test_rst_in_running :
    after (exec .rst (withBlock { running with freq := 100#25, phaseInc := 0#16, cmdErr := true } []))
      (fun t => t.block == Block.reset) = true := by decide
theorem test_setAmplitude_half :
    (performSetAmplitude 500 State.reset).sink.hi = 128#8 ∧ (performSetAmplitude 1 State.reset).sink.hi = 0#8 ∧
      (performSetAmplitude 1500 State.reset).eventCodes = [1] := by decide
/-- Rule R97: a first write answered `fail` keeps `none` or stores the clamped value; nothing is forwarded. -/
theorem test_sink_first_write_fails :
    (Sink.reset.write 147#8 .failKept).currentValue = none ∧
      (Sink.reset.write 147#8 .failStored).currentValue = some 147#8 ∧
      (Sink.reset.write 147#8 .failStored).emitted = [] := by decide
theorem test_sink_clips : ((performSetAmplitude 500 State.reset).sink.write 200#8 .ok).currentValue = some 128#8 := by decide
theorem test_getValue_before_any_write : (performGetValue State.reset).faultFree = false := by decide

/-! ## Steps -/

theorem test_step_idle_at_reset : step State.reset = .next State.reset := rfl
theorem test_step_performs_fetch_word :
    after (step (State.reset.withFetchWord 32 0x30000000)) (fun t => t.block == running && t.env == Env.reset) = true := by
  decide
theorem test_step_order_names_the_trigger :
    after (step { withBlock running [.ok] with
        env := { Env.reset with host := [.cmd 0x40000000#32], ticks := 1, order := [.trigger, .host], sinkAnswers := [.ok] } })
      (fun t => t.samples == [147#8] && t.env.order == [.host] && t.block.run == .running) = true := by decide

/-! ## Witnesses: the hypotheses of each statement are met together, clause by clause -/

theorem witness_EveryWordDecodesByOpcodeAndPayload :
    (0x1FFFFFFF#32).toNat / 2 ^ 28 = 1 ∧ (0x20000000#32).toNat / 2 ^ 28 = 2 ∧ (0x3FFFFFFF#32).toNat / 2 ^ 28 = 3 ∧
    ((0x40000000#32).toNat / 2 ^ 28 = 4 ∧ (0x40000000#32).toNat % 2 ^ 28 = 0) ∧
    ((0x40000001#32).toNat / 2 ^ 28 = 4 ∧ (0x40000001#32).toNat % 2 ^ 28 ≠ 0) ∧
    (0x0FFFFFFF#32).toNat / 2 ^ 28 = 0 ∧ 5 ≤ (0x50000000#32).toNat / 2 ^ 28 ∧ 5 ≤ (0xFFFFFFFF#32).toNat / 2 ^ 28 := by decide

theorem witness_DecodeOfEncodeIsTheInstruction :
    (Instr.illegal 0x50000000#32).wellFormed = true ∧ (Instr.setFreq 268435455#28).wellFormed = true ∧
      Instr.stop.wellFormed = true := by decide

theorem witness_StepRunsThePresentedTransaction : 2 ^ 32 - 1 < 2 ^ 32 ∧ 2 ^ 8 - 1 < 2 ^ 8 := by decide

theorem witness_StepPerformsTheOldestItemOfOneAgent :
    State.reset.accept = none ∧
    (State.reset.present (.cmd 0#32)).accept = some (.block (.cmd 0#32), State.reset) ∧
    (State.reset.present .tick).accept = some (.block .tick, State.reset) ∧
    (State.reset.present .rst).accept = some (.block .rst, State.reset) := ⟨rfl, rfl, rfl, rfl⟩

/-- Two agents pending, either of them named first. -/
def bothPending (a : Agent) : State :=
  { State.reset with env := { Env.reset with host := [.rd 0#8], ticks := 1, order := [a] } }

theorem witness_EveryOrderOfPendingAgentsIsAdmitted :
    ((bothPending .host).env.ready .host = true ∧ (bothPending .host).env.order = [.host]) ∧
    ((bothPending .trigger).env.ready .trigger = true ∧ (bothPending .trigger).env.order = [.trigger]) ∧
    ((State.reset.present .rst).env.ready .platform = true ∧ (State.reset.present .rst).env.order = [.platform]) := by decide

theorem witness_SetFreqWritesFrequencyAndIncrement : State.reset.block.sampleRate ≠ 0#20 := by decide

theorem witness_StartWithRateWritesRateIncrementAndRun : 1#28 ≠ 0#28 ∧ 268435455#28 ≠ 0#28 := by decide

theorem witness_IllegalWordSetsCmdErrForGood :
    decode (.cmd 0#32) = .illegal 0#32 ∧ decode (.cmd 0x4FFFFFFF#32) = .illegal 0x4FFFFFFF#32 ∧
    (∃ t, Instr.stop ≠ .rst ∧ exec .stop (withBlock { running with cmdErr := true } []) = .next t) ∧
    ∃ t, Instr.illegal 0#32 ∈ [Instr.stop, .illegal 0#32, .rst] ∧
      execAll [.stop, .illegal 0#32, .rst] State.reset = .next t :=
  ⟨by decide, by decide, ⟨_, by decide, rfl⟩, ⟨_, by decide, rfl⟩⟩

theorem witness_ReadReturnsTheWordAtItsAddress :
    (0x00#8).toNat = 0 ∧ (0x01#8).toNat = 1 ∧ (0x02#8).toNat = 2 ∧ (0x03#8).toNat = 3 ∧ (0x04#8).toNat = 4 ∧
      5 ≤ (0x05#8).toNat ∧ 5 ≤ (0xFF#8).toNat := by decide

theorem witness_TickWhileStoppedDoesNothing : State.reset.block.run = .stopped := rfl

theorem witness_RunningTickTakesOneSample :
    (withBlock running [.failStored]).block.run = .running ∧
    (1638#16).toNat = (running.phaseAcc.toNat + running.phaseInc.toNat) % 65536 ∧
    147#8 = romRead running.waveSel (BitVec.ofNat 8 ((1638#16).toNat / 256)) ∧
    (147#8).toNat = clamp (147#8).toNat Sink.reset.lo.toNat Sink.reset.hi.toNat := by decide

theorem witness_OneSinkwrPerRunningTickAndNoOther :
    (∃ t, exec .tick (withBlock running [.ok]) = .next t) ∧ ∃ t, exec .stop State.reset = .next t :=
  ⟨⟨_, rfl⟩, ⟨_, rfl⟩⟩

theorem witness_PhaseAfterTicksFollowsTheTickLaw :
    (∀ i ∈ [Instr.start 0#28, .tick, .setWave 2#28, .stop, .tick, .rd 0#8, .illegal 0#32], mayWriteIncrement i = false) ∧
    ∃ t, (withBlock running [.ok]).block.run = .running ∧ exec .tick (withBlock running [.ok]) = .next t :=
  ⟨by decide, ⟨_, rfl, rfl⟩⟩

theorem witness_TicksSendTheSampleSequence : (withBlock running []).block.run = .running := rfl

theorem witness_ChangesAreSeenByTheNextTick :
    (∃ t, (withBlock running [.ok]).block.run = .running ∧ (withBlock running [.ok]).block.sampleRate ≠ 0#20 ∧
      execAll [.setFreq 5000000#28, .tick] (withBlock running [.ok]) = .next t) ∧
    (∃ t, 10000#28 ≠ 0#28 ∧ execAll [.start 10000#28, .tick] (withBlock running [.ok]) = .next t) ∧
    ∃ t, execAll [.setWave 2#28, .tick] (withBlock running [.ok]) = .next t :=
  ⟨⟨_, rfl, by decide, rfl⟩, ⟨_, by decide, rfl⟩, ⟨_, rfl⟩⟩

theorem witness_ScalerDatapathOf41BitsIsExact :
    Block.reset.Legal ∧ ({ Block.reset with freq := 20000000#25, sampleRate := 1#20, phaseInc := 0#16 } : Block).Legal ∧
      41 ≤ 41 := by decide

theorem witness_ReducedIncrementGivesTheUnreducedPhase :
    ({ Block.reset with freq := 20000000#25, sampleRate := 20000#20, phaseInc := 0#16 } : Block).Legal := by decide

/-- One step below the sample rate, the largest increment; and a rate just above the frequency. -/
theorem witness_SynthesisedFrequencyIsWithinOneStepBelow :
    (withBlock running []).block.run = .running ∧
    ((withBlock { Block.reset with sampleRate := 20000#20 } []).block.sampleRate ≠ 0#20 ∧
      after (exec (.setFreq 19999999#28) (withBlock { Block.reset with sampleRate := 20000#20 } []))
        (fun t => t.block.freq.toNat < 1000 * t.block.sampleRate.toNat && t.block.phaseInc == 65535#16) = true) ∧
    (1001#28 ≠ 0#28 ∧ after (exec (.start 1001#28) State.reset)
      (fun t => t.block.freq.toNat < 1000 * t.block.sampleRate.toNat) = true) := by decide

theorem witness_NoCommandMovesThePhase :
    (∃ t, Instr.setFreq 5#28 ≠ .tick ∧ Instr.setFreq 5#28 ≠ .rst ∧ exec (.setFreq 5#28) State.reset = .next t) ∧
    (∃ t, State.reset.block.run = .stopped ∧ Instr.tick ≠ .rst ∧ exec .tick State.reset = .next t) ∧
    ∃ t, execAll [.stop, .start 0#28] State.reset = .next t :=
  ⟨⟨_, by decide, by decide, rfl⟩, ⟨_, rfl, by decide, rfl⟩, ⟨_, rfl⟩⟩

/-- The next state an outcome holds, or a given one. -/
def nextOr (s : State) (o : Host.Outcome State Fault Refusal) : State :=
  match o with
  | .next t => t
  | .fault _ => s
  | .refused _ => s

theorem witness_RegistersChangeOnlyByTheirWriters :
    (nextOr State.reset (exec (.setFreq 100#28) State.reset)).block.freq ≠ State.reset.block.freq ∧
    (nextOr State.reset (exec (.setFreq 100#28) State.reset)).block.phaseInc ≠ State.reset.block.phaseInc ∧
    (nextOr State.reset (exec (.start 1#28) State.reset)).block.sampleRate ≠ State.reset.block.sampleRate ∧
    (nextOr State.reset (exec (.start 1#28) State.reset)).block.run ≠ State.reset.block.run ∧
    (nextOr State.reset (exec (.setWave 1#28) State.reset)).block.waveSel ≠ State.reset.block.waveSel ∧
    (nextOr State.reset (exec (.illegal 0#32) State.reset)).block.cmdErr ≠ State.reset.block.cmdErr ∧
    (nextOr State.reset (exec .tick (withBlock running [.failKept]))).block.phaseAcc ≠ running.phaseAcc ∧
    (nextOr State.reset (exec .tick (withBlock running [.failKept]))).block.sinkFault ≠ running.sinkFault ∧
    (nextOr State.reset (exec .tick (withBlock running [.ok]))).sink ≠ Sink.reset := by decide

theorem witness_RunFollowsTheStateMachine : ∃ t, exec (.start 0#28) State.reset = .next t := ⟨_, rfl⟩

theorem witness_StickyFlagsAreSetByTheirCauseAlone :
    (∃ t, Instr.illegal 0#32 ≠ .rst ∧ exec (.illegal 0#32) State.reset = .next t) ∧
    ∃ t, Instr.tick ≠ .rst ∧ exec .tick (withBlock running [.failKept]) = .next t :=
  ⟨⟨_, by decide, rfl⟩, ⟨_, by decide, rfl⟩⟩

theorem witness_EachOperationMeetsItsEvents :
    (∃ t, exec (.setFreq 20000001#28) State.reset = .next t) ∧ (∃ t, exec (.setWave 4#28) State.reset = .next t) ∧
    (∃ t, exec (.start 1000000#28) State.reset = .next t) ∧ ∃ t, exec .tick (withBlock running [.failKept]) = .next t :=
  ⟨⟨_, rfl⟩, ⟨_, rfl⟩, ⟨_, rfl⟩, ⟨_, rfl⟩⟩

theorem witness_RepeatedCommandsLeaveTheSameState :
    (∃ t u, exec (.setFreq 5#28) State.reset = .next t ∧ exec (.setFreq 5#28) t = .next u) ∧
    ∃ t u, exec .stop State.reset = .next t ∧ exec .stop t = .next u :=
  ⟨⟨_, _, rfl, rfl⟩, ⟨_, _, rfl, rfl⟩⟩

theorem witness_NoTickHasAnEffectAfterStop : ∀ p, Instr.start p ∉ [Instr.tick, .setFreq 5#28, .tick, .rst, .tick] := by
  intro p
  simp

theorem witness_OneStopDisarmsAfterManyStarts : ∃ t u,
    execAll ([1#28, 0#28].map .start) State.reset = .next t ∧ exec .stop t = .next u ∧ exec .tick u = .next u :=
  ⟨_, _, rfl, rfl, rfl⟩

theorem witness_SinkReachesNothingButSinkFault : ∃ t t',
    (withBlock running [.ok]).block = (withBlock running [.failStored]).block ∧
    exec .tick (withBlock running [.ok]) = .next t ∧ exec .tick (withBlock running [.failStored]) = .next t' :=
  ⟨_, _, rfl, rfl, rfl⟩

theorem witness_EveryStepKeepsLegalStates : ∃ t,
    (State.reset.present (.cmd 0x1FFFFFFF#32)).Legal ∧ step (State.reset.present (.cmd 0x1FFFFFFF#32)) = .next t :=
  ⟨_, by decide, rfl⟩

/-- A reachable state with RUN = 1 and CMD_ERR = 1: an illegal word and a START were presented and performed. -/
theorem witness_ReachableStatesAreLegal : ∃ s, Reachable s ∧ s.block.run = .running ∧ s.block.cmdErr = true :=
  ⟨_, .afterStep (.afterMove (.hostIssues (.cmd 0x30000000#32))
      (.afterStep (.afterMove (.hostIssues (.cmd 0x00000000#32)) .atReset) rfl)) rfl, by decide, by decide⟩

theorem witness_ReachableFlagsHaveTheirEvents :
    (∃ s, Reachable s ∧ s.block.cmdErr = true) ∧ (∃ s, Reachable s ∧ s.block.sinkFault = true) ∧
    ∃ s, Reachable s ∧ s.faultFree = true :=
  ⟨⟨_, .afterStep (.afterMove (.hostIssues (.cmd 0x00000000#32)) .atReset) rfl, by decide⟩,
   ⟨_, .afterStep (.afterMove .triggerTicks (.afterMove (.sinkWillAnswer .failKept)
      (.afterStep (.afterMove (.hostIssues (.cmd 0x30000000#32)) .atReset) rfl))) rfl, by decide⟩,
   ⟨_, .atReset, by decide⟩⟩

theorem witness_ReachableSinkForwardedEachAcceptedSample :
    (∃ s, Reachable s ∧ s.sink.emitted = [147#8]) ∧ ∃ s, Reachable s ∧ s.sink.currentValue = none :=
  ⟨⟨_, .afterStep (.afterMove .triggerTicks (.afterMove (.sinkWillAnswer .ok)
      (.afterStep (.afterMove (.hostIssues (.cmd 0x30000000#32)) .atReset) rfl))) rfl, by decide⟩,
   ⟨_, .atReset, by decide⟩⟩

theorem witness_FaultsOfARunAreNeverCleared : ∃ t,
    step (State.reset.present (.cmd 0x40000000#32)) = .next t ∧ t.faultFree = true := ⟨_, rfl, by decide⟩

/-- The host asks the sink. -/
def asks (op : SinkOp) : State := { State.reset with env := { Env.reset with host := [.sink op] } }

theorem witness_SetAmplitudeSetsTheRange :
    (∃ s', (asks (.setAmplitude 1000)).accept = some (.sink (.setAmplitude 1000), s')) ∧
    ∃ s', (asks (.setAmplitude 1001)).accept = some (.sink (.setAmplitude 1001), s') := ⟨⟨_, rfl⟩, ⟨_, rfl⟩⟩

theorem witness_GetValueReturnsTheLastValue : ∃ s', (asks .getValue).accept = some (.sink .getValue, s') := ⟨_, rfl⟩

theorem witness_SinkForwardsInsideItsRange :
    Sink.reset.lo.toNat ≤ Sink.reset.hi.toNat ∧ Sink.reset.lo.toNat ≤ (255#8).toNat ∧
      (255#8).toNat ≤ Sink.reset.hi.toNat := by decide

theorem witness_TriggerPeriodIsOneOverTheRate : Block.reset.Legal := by decide

theorem witness_TickOverrunReachesTheBlockOnlyByTicks :
    (State.reset.env.ticks = 0 ∧ (State.reset.arrive .triggerTicks).env.ticks ≠ 0) ∧
    Reachable (State.reset.arrive .triggerTicks) := ⟨by decide, .afterMove _ .atReset⟩

theorem witness_LinesAssembleToTheirEncoding : 2 ^ 28 ≤ 268435456 ∧ 2 ^ 32 ≤ 4294967296 ∧ 256 ≤ 256 := by decide

end Sys2Proof.Tests
end

section
/-! PROOFS. What a step can do and what every step keeps, and with it the obligations about the state of 10_state.md. -/

namespace Sys2Proof.Machine

/-! ## One step, said once -/

/-- Accepting a request changes what the agents present and nothing else. -/
theorem State.accept_some {s s' : State} {r : Request} (h : s.accept = some (r, s')) : ∃ e, s' = s.setEnv e := by
  unfold State.accept at h
  split at h
  · cases h
  · split at h
    · cases h
    · obtain ⟨-, rfl⟩ := Prod.mk.inj (Option.some.inj h)
      exact ⟨_, rfl⟩

/-- A step waits, or performs one transaction, or performs one operation of the sink. -/
theorem step_cases {s t : State} (h : step s = .next t) :
    (s.accept = none ∧ t = s) ∨
    (∃ tr e, s.accept = some (.block tr, s.setEnv e) ∧ exec (decode tr) (s.setEnv e) = .next t) ∨
    (∃ op e, s.accept = some (.sink op, s.setEnv e) ∧ t = performSinkOp op (s.setEnv e)) := by
  unfold step at h
  split at h
  · next hacc =>
    injection h with h
    exact .inl ⟨hacc, h.symm⟩
  · next tr s' hacc =>
    obtain ⟨e, rfl⟩ := State.accept_some hacc
    exact .inr (.inl ⟨tr, e, hacc, h⟩)
  · next op s' hacc =>
    obtain ⟨e, rfl⟩ := State.accept_some hacc
    injection h with h
    exact .inr (.inr ⟨op, e, hacc, h.symm⟩)

/-- A property that does not depend on what the agents present, and that every operation of the block and of the sink
keeps. -/
structure Kept (P : State → Prop) : Prop where
  setEnv : ∀ {s : State} (e : Env), P s → P (s.setEnv e)
  exec : ∀ {i : Instr} {s t : State}, P s → exec i s = .next t → P t
  sinkOp : ∀ {s : State} (op : SinkOp), P s → P (performSinkOp op s)

/-- Every step keeps such a property. -/
theorem Kept.step {P : State → Prop} (hP : Kept P) {s t : State} (hs : P s) (h : step s = .next t) : P t := by
  obtain ⟨-, rfl⟩ | ⟨tr, e, -, hexec⟩ | ⟨op, e, -, rfl⟩ := step_cases h
  · exact hs
  · exact hP.exec (hP.setEnv e hs) hexec
  · exact hP.sinkOp op (hP.setEnv e hs)

/-- Such a property holds of every reachable state once it holds at reset. -/
theorem Kept.reachable {P : State → Prop} (hP : Kept P) (h0 : P State.reset) {s : State} (h : Reachable s) : P s := by
  induction h with
  | atReset => exact h0
  | afterMove m _ ih => exact hP.setEnv _ ih
  | afterStep _ hstep ih => exact hP.step ih hstep

/-! ## The increment and the sample period, register by register -/

@[simp] theorem Block.updateIncrement_freq (b : Block) : b.updateIncrement.freq = b.freq := rfl
@[simp] theorem Block.updateIncrement_sampleRate (b : Block) : b.updateIncrement.sampleRate = b.sampleRate := rfl
@[simp] theorem Block.updateIncrement_phaseAcc (b : Block) : b.updateIncrement.phaseAcc = b.phaseAcc := rfl
@[simp] theorem Block.updateIncrement_waveSel (b : Block) : b.updateIncrement.waveSel = b.waveSel := rfl
@[simp] theorem Block.updateIncrement_run (b : Block) : b.updateIncrement.run = b.run := rfl
@[simp] theorem Block.updateIncrement_cmdErr (b : Block) : b.updateIncrement.cmdErr = b.cmdErr := rfl
@[simp] theorem Block.updateIncrement_sinkFault (b : Block) : b.updateIncrement.sinkFault = b.sinkFault := rfl

/-- A sample period writes PHASE_ACC, and raises SINK_FAULT when the sink answers `fail`. -/
theorem samplePeriod_block_eq (s : State) :
    (samplePeriod s).block =
      (s.block.setPhaseAcc (s.block.phaseAcc + s.block.phaseInc)).setSinkFault
        (s.block.sinkFault || decide (respOf s.env.drawSinkAnswer.1 = .fail)) := by
  rw [samplePeriod_block, Block.nextPhase_block]
  cases respOf s.env.drawSinkAnswer.1 <;> simp [Block.setPhaseAcc, Block.setSinkFault]

/-! ## The write matrix (rule R29) -/

/-- Settles O34, by cases of the operation: each has the block of its row of the matrix. -/
theorem registersChangeOnlyByTheirWriters : Obligations.RegistersChangeOnlyByTheirWriters := by
  intro i s t h
  cases i with
  | setFreq p =>
    obtain ⟨hb, hk, he, -⟩ := exec_setFreq_next h
    simp [hb, hk, he]
  | setWave p =>
    obtain ⟨hb, hk, he, -⟩ := exec_setWave_next h
    simp [hb, hk, he]
  | start p =>
    obtain ⟨hk, he, ⟨hp, hb, -⟩ | ⟨-, hb, -⟩⟩ := exec_start_next h
    · have hp : p ≠ 0#28 := by simpa [suppliesRate] using hp
      simp [hb, hk, he, hp]
    · simp [hb, hk, he]
  | stop => simp [exec_stop_next h]
  | illegal w => simp [exec_illegal_next h]
  | rd a => simp [exec_rd_next h]
  | tick =>
    obtain ⟨-, rfl⟩ | ⟨hrun, rfl⟩ := exec_tick_next h
    · simp
    · simp [samplePeriod_block_eq, hrun]
  | rst => simp [exec_rst_next h]

/-! ## Legal states (rules R15, R19 and R96) -/

/-- Legality is a matter of the three registers of the scaler. -/
theorem Block.Legal.of_scaler_eq {b c : Block} (h : b.Legal) (hf : c.freq = b.freq)
    (hr : c.sampleRate = b.sampleRate) (hi : c.phaseInc = b.phaseInc) : c.Legal := by
  rw [Block.Legal, hf, hr, hi]
  exact h

/-- Legality of a sink is a matter of its range. -/
theorem Sink.Legal.of_range_eq {k l : Sink} (h : k.Legal) (hlo : l.lo = k.lo) (hhi : l.hi = k.hi) : l.Legal := by
  rw [Sink.Legal, hlo, hhi]
  exact h

/-- UpdateIncrement restores the increment's invariant, whatever PHASE_INC was (rule R19). -/
theorem Block.updateIncrement_legal {b : Block} (hf : 100 ≤ b.freq.toNat ∧ b.freq.toNat ≤ 20000000)
    (hr : 1 ≤ b.sampleRate.toNat ∧ b.sampleRate.toNat ≤ 1000000) : b.updateIncrement.Legal := by
  have hne : b.sampleRate ≠ 0#20 := by
    intro h0
    simp [h0] at hr
  exact ⟨hf, hr, Block.updateIncrement_phaseInc_toNat hne⟩

theorem Sink.setAmplitude_legal (k : Sink) (a : Nat) : (k.setAmplitude a).Legal := ⟨rfl, Nat.zero_le _⟩

/-- The reset registers satisfy the increment's invariant: 1638 is the quotient at 1000 Hz and 40 000 Hz. -/
theorem Block.reset_legal : Block.reset.Legal := by decide

/-- Settles O42: the reset registers and the full range of the sink. -/
theorem resetStateIsLegal : Obligations.ResetStateIsLegal := ⟨Block.reset_legal, by decide⟩

theorem exec_keeps_block_legal {i : Instr} {s t : State} (hs : s.block.Legal) (h : exec i s = .next t) :
    t.block.Legal := by
  have ⟨hfreq, hrate, _⟩ := hs
  cases i with
  | setFreq p =>
    obtain ⟨hb, -⟩ := exec_setFreq_next h
    rw [hb]
    exact Block.updateIncrement_legal (clampFreq_mem p) hrate
  | setWave p =>
    obtain ⟨hb, -⟩ := exec_setWave_next h
    exact hs.of_scaler_eq (by simp [hb]) (by simp [hb]) (by simp [hb])
  | start p =>
    obtain ⟨-, -, ⟨-, hb, -⟩ | ⟨-, hb, -⟩⟩ := exec_start_next h
    · have hinc : ((s.block.setSampleRate (clampRate p)).updateIncrement).Legal :=
        Block.updateIncrement_legal hfreq (clampRate_mem p)
      exact hinc.of_scaler_eq (by simp [hb]) (by simp [hb]) (by simp [hb])
    · exact hs.of_scaler_eq (by simp [hb]) (by simp [hb]) (by simp [hb])
  | stop => exact exec_stop_next h ▸ hs
  | illegal w => exact exec_illegal_next h ▸ hs
  | rd a => exact exec_rd_next h ▸ hs
  | tick =>
    obtain ⟨-, rfl⟩ | ⟨-, rfl⟩ := exec_tick_next h
    · exact hs
    · exact hs.of_scaler_eq (by simp [samplePeriod_block_eq]) (by simp [samplePeriod_block_eq])
        (by simp [samplePeriod_block_eq])
  | rst => exact exec_rst_next h ▸ Block.reset_legal

/-- A write of a sample moves no bound of the sink. -/
theorem exec_keeps_sink_range {i : Instr} {s t : State} (h : exec i s = .next t) :
    t.sink.lo = s.sink.lo ∧ t.sink.hi = s.sink.hi := by
  by_cases hsink : t.sink = s.sink
  · simp [hsink]
  · obtain ⟨-, -, -, -, -, -, -, -, hwriter⟩ := registersChangeOnlyByTheirWriters i s t h
    obtain ⟨rfl, hrun⟩ := hwriter (.inl hsink)
    obtain ⟨hstop, -⟩ | ⟨-, rfl⟩ := exec_tick_next h
    · simp [hrun] at hstop
    · simp [samplePeriod_sink]

/-- No operation of the sink writes a register. -/
theorem performSinkOp_block (op : SinkOp) (s : State) : (performSinkOp op s).block = s.block := by
  cases op <;> simp [performSinkOp, performSetAmplitude, performGetValue]

theorem performSinkOp_keeps_legal {s : State} (op : SinkOp) (hs : s.Legal) : (performSinkOp op s).Legal := by
  cases op with
  | setAmplitude a =>
    exact ⟨performSinkOp_block (.setAmplitude a) s ▸ hs.1, Sink.setAmplitude_legal _ a⟩
  | getValue => exact hs

theorem legal_kept : Kept State.Legal where
  setEnv _ hs := hs
  exec hs h :=
    have ⟨hlo, hhi⟩ := exec_keeps_sink_range h
    ⟨exec_keeps_block_legal hs.1 h, hs.2.of_range_eq hlo hhi⟩
  sinkOp op hs := performSinkOp_keeps_legal op hs

/-- Settles O43: UpdateIncrement is the one writer of the increment, the clamps bound what it reads, and the range of the
sink moves only to `[0, hi]`. -/
theorem everyStepKeepsLegalStates : Obligations.EveryStepKeepsLegalStates := fun _ _ => legal_kept.step

/-- Settles O44: legality holds at reset and is kept. -/
theorem reachableStatesAreLegal : Obligations.ReachableStatesAreLegal := fun _ =>
  legal_kept.reachable resetStateIsLegal

/-! ## Sticky flags and their events (rules R23, R24 and R28) -/

/-- A TICK alone observes a SINKWR. -/
theorem exec_trace_ne_sinkwr_of_ne_tick {i : Instr} {s t : State} (hi : i ≠ .tick) (h : exec i s = .next t) (v : Byte)
    (r : SinkResp) (l : List Obs) : t.trace ≠ s.trace ++ .sinkwr v r :: l := by
  cases i with
  | setFreq p =>
    obtain ⟨-, -, -, ht⟩ := exec_setFreq_next h
    cases hc : freqIsClamped p <;> simp [ht, hc]
  | setWave p =>
    obtain ⟨-, -, -, ht⟩ := exec_setWave_next h
    cases hc : isWaveCode p <;> simp [ht, hc]
  | start p =>
    obtain ⟨-, -, ⟨-, -, ht⟩ | ⟨-, -, ht⟩⟩ := exec_start_next h
    · cases hc : rateIsClamped p <;> simp [ht, hc]
    · simp [ht]
  | stop => simp [exec_stop_next h]
  | illegal w => simp [exec_illegal_next h]
  | rd a => simp [exec_rd_next h]
  | tick => exact absurd rfl hi
  | rst => simp [exec_rst_next h]

theorem exec_cmdErr_iff {i : Instr} {s t : State} (hi : i ≠ .rst) (h : exec i s = .next t) :
    t.block.cmdErr = true ↔ s.block.cmdErr = true ∨ ∃ w, i = .illegal w := by
  by_cases hill : ∃ w, i = .illegal w
  · obtain ⟨w, rfl⟩ := hill
    simp [exec_illegal_next h]
  · obtain ⟨-, -, -, -, -, -, hwriter, -⟩ := registersChangeOnlyByTheirWriters i s t h
    have hsame : t.block.cmdErr = s.block.cmdErr := by
      by_contra hne
      exact (hwriter hne).elim hill hi
    simp [hsame, hill]

theorem exec_tick_sinkFault_iff {s t : State} (h : exec .tick s = .next t) :
    t.block.sinkFault = true ↔
      s.block.sinkFault = true ∨ ∃ v, t.trace = s.trace ++ [.sinkwr v .fail, .event .deviceWriteFailure] := by
  obtain ⟨-, rfl⟩ | ⟨-, rfl⟩ := exec_tick_next h
  · simp
  · cases hans : respOf s.env.drawSinkAnswer.1 <;> simp [samplePeriod_block_eq, samplePeriod_trace, hans]

theorem exec_sinkFault_iff {i : Instr} {s t : State} (hi : i ≠ .rst) (h : exec i s = .next t) :
    t.block.sinkFault = true ↔
      s.block.sinkFault = true ∨ ∃ v, t.trace = s.trace ++ [.sinkwr v .fail, .event .deviceWriteFailure] := by
  by_cases htick : i = .tick
  · subst htick
    exact exec_tick_sinkFault_iff h
  · obtain ⟨-, -, -, -, -, -, -, hwriter, -⟩ := registersChangeOnlyByTheirWriters i s t h
    have hsame : t.block.sinkFault = s.block.sinkFault := by
      by_contra hne
      exact (hwriter hne).elim (fun hrunning => htick hrunning.1) hi
    simp [hsame, exec_trace_ne_sinkwr_of_ne_tick htick h]

/-- Settles O36, from the write matrix and the effect of the one writer of each flag. -/
theorem stickyFlagsAreSetByTheirCauseAlone : Obligations.StickyFlagsAreSetByTheirCauseAlone :=
  fun _ _ _ hi h => ⟨exec_cmdErr_iff hi h, exec_sinkFault_iff hi h⟩

/-! ## The events behind the flags (rules R105 and R106) -/

theorem State.mem_events {s : State} {e : Event} : e ∈ s.events ↔ Obs.event e ∈ s.trace := by
  simp only [State.events, List.mem_filterMap]
  constructor
  · rintro ⟨o, ho, heq⟩
    cases o with
    | event e' => exact Option.some.inj heq ▸ ho
    | sinkwr _ _ | reply _ _ | sinkRead _ => cases heq
  · exact fun he => ⟨_, he, rfl⟩

/-- The observation only grows. -/
theorem exec_trace_prefix {i : Instr} {s t : State} (h : exec i s = .next t) : s.trace <+: t.trace := by
  cases i with
  | setFreq p =>
    obtain ⟨-, -, -, ht⟩ := exec_setFreq_next h
    simp [ht]
  | setWave p =>
    obtain ⟨-, -, -, ht⟩ := exec_setWave_next h
    simp [ht]
  | start p =>
    obtain ⟨-, -, ⟨-, -, ht⟩ | ⟨-, -, ht⟩⟩ := exec_start_next h <;> simp [ht]
  | stop => simp [exec_stop_next h]
  | illegal w => simp [exec_illegal_next h]
  | rd a => simp [exec_rd_next h]
  | tick => obtain ⟨-, rfl⟩ | ⟨-, rfl⟩ := exec_tick_next h <;> simp [samplePeriod_trace]
  | rst => simp [exec_rst_next h]

theorem performSinkOp_trace_prefix (op : SinkOp) (s : State) : s.trace <+: (performSinkOp op s).trace := by
  cases op <;> simp [performSinkOp, performSetAmplitude, performGetValue]

/-- Each sticky flag that is set has its event in the history. -/
def State.FlagsHaveEvents (s : State) : Prop :=
  (s.block.cmdErr = true → ∃ w, Event.illegalCommand w ∈ s.events) ∧
  (s.block.sinkFault = true → Event.deviceWriteFailure ∈ s.events)

theorem State.events_subset_of_prefix {s t : State} (h : s.trace <+: t.trace) : s.events ⊆ t.events :=
  fun _ he => State.mem_events.mpr (h.subset (State.mem_events.mp he))

/-- RST clears the flags; any other operation sets a flag only with its event. -/
theorem exec_keeps_flagsHaveEvents {i : Instr} {s t : State} (hs : s.FlagsHaveEvents) (h : exec i s = .next t) :
    t.FlagsHaveEvents := by
  obtain ⟨hcmd, hsink⟩ := hs
  have hsub := State.events_subset_of_prefix (exec_trace_prefix h)
  by_cases hi : i = .rst
  · subst hi
    simp [State.FlagsHaveEvents, exec_rst_next h, Block.reset]
  · constructor
    · intro hflag
      obtain hold | ⟨w, rfl⟩ := (exec_cmdErr_iff hi h).mp hflag
      · obtain ⟨w, hw⟩ := hcmd hold
        exact ⟨w, hsub hw⟩
      · exact ⟨w, by simp [State.mem_events, exec_illegal_next h]⟩
    · intro hflag
      obtain hold | ⟨v, ht⟩ := (exec_sinkFault_iff hi h).mp hflag
      · exact hsub (hsink hold)
      · simp [State.mem_events, ht]

theorem performSinkOp_keeps_flagsHaveEvents {s : State} (op : SinkOp) (hs : s.FlagsHaveEvents) :
    (performSinkOp op s).FlagsHaveEvents := by
  obtain ⟨hcmd, hsink⟩ := hs
  have hsub := State.events_subset_of_prefix (performSinkOp_trace_prefix op s)
  rw [State.FlagsHaveEvents, performSinkOp_block]
  exact ⟨fun hflag => (hcmd hflag).imp fun _ hw => hsub hw, fun hflag => hsub (hsink hflag)⟩

theorem State.reset_flagsHaveEvents : State.reset.FlagsHaveEvents :=
  ⟨fun hflag => Bool.noConfusion hflag, fun hflag => Bool.noConfusion hflag⟩

theorem flagsHaveEvents_kept : Kept State.FlagsHaveEvents where
  setEnv _ hs := hs
  exec := exec_keeps_flagsHaveEvents
  sinkOp := performSinkOp_keeps_flagsHaveEvents

theorem State.isFault_eq_false_of_faultFree {s : State} {e : Event} (h : s.faultFree = true) (he : e ∈ s.events) :
    e.isFault = false := by
  simpa [Obs.isFault] using List.all_eq_true.mp h _ (State.mem_events.mp he)

/-- The events of both flags are faults of the run, so a run without faults has neither flag. -/
theorem State.FlagsHaveEvents.flags_clear_of_faultFree {s : State} (hs : s.FlagsHaveEvents)
    (hfree : s.faultFree = true) : s.block.cmdErr = false ∧ s.block.sinkFault = false := by
  obtain ⟨hcmd, hsink⟩ := hs
  constructor
  · by_contra hflag
    obtain ⟨w, hw⟩ := hcmd (Bool.not_eq_false _ ▸ hflag)
    exact absurd (State.isFault_eq_false_of_faultFree hfree hw) (by simp [Event.isFault, Event.code])
  · by_contra hflag
    exact absurd (State.isFault_eq_false_of_faultFree hfree (hsink (Bool.not_eq_false _ ▸ hflag))) (by decide)

/-- Settles O45: the flags have their events at reset, where both are clear, and every operation keeps it. -/
theorem reachableFlagsHaveTheirEvents : Obligations.ReachableFlagsHaveTheirEvents := by
  intro s hreach
  have hs : s.FlagsHaveEvents := flagsHaveEvents_kept.reachable State.reset_flagsHaveEvents hreach
  exact ⟨hs.1, hs.2, hs.flags_clear_of_faultFree⟩

/-! ## STATUS (rule R25) -/

theorem RunState.bit_eq_ofBool (r : RunState) : r.bit = BitVec.ofBool (decide (r = .running)) := by
  cases r <;> rfl

/-- The bits of STATUS: the three flags, a reserved 0, and WAVE_SEL above them. -/
theorem Block.status_getLsbD (b : Block) :
    b.status.getLsbD 0 = decide (b.run = .running) ∧ b.status.getLsbD 1 = b.cmdErr ∧
    b.status.getLsbD 2 = b.sinkFault ∧ b.status.getLsbD 3 = false ∧
    ∀ i, b.status.getLsbD (i + 4) = b.waveSel.getLsbD i := by
  simp only [Block.status, RunState.bit_eq_ofBool, BitVec.getLsbD_setWidth, BitVec.getLsbD_append]
  refine ⟨by simp, by simp, by simp, by simp, fun i => ?_⟩
  obtain hi | hi := Nat.lt_or_ge i 2
  · simp [show i + 4 < 32 by omega]
  · simp [BitVec.getLsbD_of_ge b.waveSel i hi]

/-- Settles O22: the bits one by one, and WAVE_SEL has two of them. -/
theorem statusBitsAreTheFlags : Obligations.StatusBitsAreTheFlags := by
  intro b
  obtain ⟨hrun, hcmd, hsink, hreserved, hwave⟩ := b.status_getLsbD
  refine ⟨hrun, hcmd, hsink, hreserved, ?field, ?above, rfl, by decide⟩
  case field =>
    refine BitVec.eq_of_getLsbD_eq fun i hi => ?_
    simp [hi, Nat.add_comm 4 i, hwave]
  case above =>
    intro i hi
    obtain ⟨j, rfl⟩ := Nat.exists_eq_add_of_le' (show 4 ≤ i by omega)
    rw [hwave]
    exact BitVec.getLsbD_of_ge _ _ (by omega)

end Sys2Proof.Machine
end

section
/-! PROOFS. How transactions reach the block, in which order they are performed, and what reads and commands do one after
another: the obligations of 20_memory.md. -/

namespace Sys2Proof

/-! ## The byte-serial carrier (rule R36) -/

/-- The four bytes of a word, the most significant one first, make the word. -/
theorem bytes_append (w : Word) :
    (w.extractLsb' 24 8 ++ w.extractLsb' 16 8 ++ w.extractLsb' 8 8 ++ w.extractLsb' 0 8 : Word) = w := by
  rw [BitVec.extractLsb'_append_extractLsb'_eq_extractLsb' (show 24 = 16 + 8 from rfl),
    BitVec.extractLsb'_append_extractLsb'_eq_extractLsb' (show 16 = 8 + 8 from rfl),
    BitVec.extractLsb'_append_extractLsb'_eq_extractLsb' (show 8 = 0 + 8 from rfl), BitVec.extractLsb'_eq_self]

/-- Settles O7: each order sends the bytes of the word, and its receiver puts them together in the same order. -/
theorem carrierDeliversTheSameWordUnderEitherByteOrder :
    Obligations.CarrierDeliversTheSameWordUnderEitherByteOrder := by
  intro o w
  cases o <;> simp only [carrierBytes, transactionOfBytes, carrierWord, bytes_append]

namespace Machine

/-! ## Accepting a request (rules R41 and R42) -/

/-- `r` is the oldest item that the agent has pending in `e`, and `e'` presents everything else as `e` does. -/
def Env.OldestOf (e : Env) (a : Agent) (r : Request) (e' : Env) : Prop :=
  match a with
  | .host => ∃ q, e.host = q :: e'.host ∧ r = q.toRequest ∧ e'.ticks = e.ticks ∧ e'.resets = e.resets
  | .trigger => e.ticks = e'.ticks + 1 ∧ r = .block .tick ∧ e'.host = e.host ∧ e'.resets = e.resets
  | .platform => e.resets = e'.resets + 1 ∧ r = .block .rst ∧ e'.host = e.host ∧ e'.ticks = e.ticks

/-- What is taken from an agent is its oldest item, and the choices that are still open stay as they are. -/
theorem Env.takeFrom_some {e e' : Env} {a : Agent} {r : Request} (h : e.takeFrom a = some (r, e')) :
    e.OldestOf a r e' ∧ e'.order = e.order ∧ e'.sinkAnswers = e.sinkAnswers ∧ e'.draws = e.draws := by
  cases a with
  | host =>
    simp only [Env.takeFrom] at h
    split at h
    · cases h
    · next q rest hq =>
      obtain ⟨rfl, rfl⟩ := Prod.mk.inj (Option.some.inj h)
      exact ⟨⟨q, hq, rfl, rfl, rfl⟩, rfl, rfl, rfl⟩
  | trigger =>
    simp only [Env.takeFrom] at h
    split at h
    · cases h
    · next n hn =>
      obtain ⟨rfl, rfl⟩ := Prod.mk.inj (Option.some.inj h)
      exact ⟨⟨hn, rfl, rfl, rfl⟩, rfl, rfl, rfl⟩
  | platform =>
    simp only [Env.takeFrom] at h
    split at h
    · cases h
    · next n hn =>
      obtain ⟨rfl, rfl⟩ := Prod.mk.inj (Option.some.inj h)
      exact ⟨⟨hn, rfl, rfl, rfl⟩, rfl, rfl, rfl⟩

/-- Which item is the oldest is a matter of the queues alone. -/
theorem Env.SameQueues.oldestOf_iff {e e₁ e' : Env} (h : e.SameQueues e₁) {a : Agent} {r : Request} :
    e₁.OldestOf a r e' ↔ e.OldestOf a r e' := by
  obtain ⟨hhost, hticks, hresets, -⟩ := h
  cases a <;> simp only [Env.OldestOf, hhost, hticks, hresets]

theorem Env.SameQueues.ready_eq {e e₁ : Env} (h : e.SameQueues e₁) (a : Agent) : e₁.ready a = e.ready a := by
  obtain ⟨hhost, hticks, hresets, -⟩ := h
  cases a <;> simp only [Env.ready, hhost, hticks, hresets]

/-- An agent whose oldest item is taken had something pending. -/
theorem Env.OldestOf.ready {e e' : Env} {a : Agent} {r : Request} (h : e.OldestOf a r e') : e.ready a = true := by
  cases a with
  | host =>
    obtain ⟨q, hq, -⟩ := h
    simp [Env.ready, hq]
  | trigger => simp [Env.ready, h.1]
  | platform => simp [Env.ready, h.1]

/-- A chosen agent has something to take, and taking it is the acceptance. -/
theorem State.accept_of_choose {s : State} {a : Agent} {e : Env} (h : s.env.chooseAgent = some (a, e)) :
    ∃ r e', e.takeFrom a = some (r, e') ∧ s.accept = some (r, s.setEnv e') := by
  obtain ⟨hready, hq⟩ := Env.chooseAgent_some h
  obtain ⟨r, e', htake⟩ := Env.takeFrom_of_ready (hq.ready_eq a ▸ hready)
  exact ⟨r, e', htake, by simp only [State.accept, h, htake]⟩

/-- What is accepted is the oldest item of some agent. -/
theorem State.accept_some_oldest {s s' : State} {r : Request} (h : s.accept = some (r, s')) :
    ∃ a e', s' = s.setEnv e' ∧ s.env.OldestOf a r e' ∧ e'.sinkAnswers = s.env.sinkAnswers := by
  cases hc : s.env.chooseAgent with
  | none => simp [State.accept, hc] at h
  | some p =>
    obtain ⟨a, e⟩ := p
    obtain ⟨r', e', htake, hacc⟩ := State.accept_of_choose hc
    obtain ⟨rfl, rfl⟩ := Prod.mk.inj (Option.some.inj (hacc.symm.trans h))
    have ⟨_, hq⟩ := Env.chooseAgent_some hc
    have ⟨_, _, _, hsame⟩ := hq
    obtain ⟨hold, -, hans, -⟩ := Env.takeFrom_some htake
    exact ⟨a, e', rfl, hq.oldestOf_iff.mp hold, hans.trans hsame⟩

/-- Nothing is accepted exactly when no agent is ready. -/
theorem State.accept_eq_none_iff {s : State} : s.accept = none ↔ ∀ a, s.env.ready a = false := by
  constructor
  · intro h
    refine Env.chooseAgent_none ?_
    by_contra hne
    obtain ⟨⟨a, e⟩, hc⟩ := Option.ne_none_iff_exists'.mp hne
    obtain ⟨r, e', -, hacc⟩ := State.accept_of_choose hc
    simp [h] at hacc
  · intro h
    by_contra hne
    obtain ⟨⟨r, s'⟩, hacc⟩ := Option.ne_none_iff_exists'.mp hne
    obtain ⟨a, e', -, hold, -⟩ := State.accept_some_oldest hacc
    exact absurd hold.ready (by simp [h a])

theorem Env.ready_all_false_iff {e : Env} : (∀ a, e.ready a = false) ↔ e.host = [] ∧ e.ticks = 0 ∧ e.resets = 0 := by
  constructor
  · intro h
    exact ⟨by simpa [Env.ready] using h .host, by simpa [Env.ready] using h .trigger,
      by simpa [Env.ready] using h .platform⟩
  · rintro ⟨hhost, hticks, hresets⟩ a
    cases a <;> simp [Env.ready, hhost, hticks, hresets]

theorem step_of_accept_none {s : State} (h : s.accept = none) : step s = .next s := by
  simp only [step, h]

theorem step_of_accept_block {s s' : State} {t : Transaction} (h : s.accept = some (.block t, s')) :
    step s = exec (decode t) s' := by
  simp only [step, h]

/-- Settles O10: what is accepted is the oldest item of one agent, by the two lemmas on acceptance, and a step runs it. -/
theorem stepPerformsTheOldestItemOfOneAgent : Obligations.StepPerformsTheOldestItemOfOneAgent := by
  refine ⟨fun s => State.accept_eq_none_iff.trans Env.ready_all_false_iff, fun _ => step_of_accept_none,
    fun _ _ _ => step_of_accept_block, fun s s' r h => ?_⟩
  obtain ⟨a, e', rfl, hold, hans⟩ := State.accept_some_oldest h
  refine ⟨rfl, rfl, rfl, hans, ?_⟩
  cases a with
  | host => exact .inl hold
  | trigger => exact .inr (.inl hold)
  | platform => exact .inr (.inr hold)

/-- A ready agent that the schedule names first is chosen, and no draw is taken. -/
theorem Env.chooseAgent_of_order {e : Env} {a : Agent} {rest : List Agent} (hready : e.ready a = true)
    (horder : e.order = a :: rest) : e.chooseAgent = some (a, { e with order := rest }) := by
  simp [Env.chooseAgent, Env.firstReady, horder, hready]

/-- Settles O11: the agent named first is chosen, and its oldest item is taken. -/
theorem everyOrderOfPendingAgentsIsAdmitted : Obligations.EveryOrderOfPendingAgentsIsAdmitted := by
  intro s a rest hready horder
  obtain ⟨r, e', htake, hacc⟩ := State.accept_of_choose (Env.chooseAgent_of_order hready horder)
  obtain ⟨hold, hrest, -, hdraws⟩ := Env.takeFrom_some htake
  refine ⟨r, s.setEnv e', hacc, hrest, hdraws, ?_⟩
  cases a with
  | host =>
    obtain ⟨q, hq, hr, -⟩ := hold
    exact ⟨q, hq, hr⟩
  | trigger => exact hold.2.1
  | platform => exact hold.2.1

/-- The step after a transaction is presented performs it. -/
theorem step_present (s : State) (t : Transaction) : step (s.present t) = exec (decode t) s :=
  step_of_accept_block (State.accept_present s t)

theorem step_withFetchWord {s : State} {nbits w : Nat} {t : Transaction} (h : transactionOfTable nbits w = some t) :
    step (s.withFetchWord nbits w) = exec (decode t) s := by
  simp only [State.withFetchWord, h, step_present]

/-- Settles O9: a table word presents its transaction, which the next step accepts. -/
theorem stepRunsThePresentedTransaction : Obligations.StepRunsThePresentedTransaction :=
  ⟨step_present,
    fun _ _ hw => step_withFetchWord (if_pos hw),
    fun _ _ hw => step_withFetchWord (t := .rd _) (if_pos hw),
    fun _ => ⟨step_withFetchWord (t := .tick) rfl, step_withFetchWord (t := .rst) rfl⟩⟩

/-! ## The ROM address (rule R31) -/

/-- A ROM address splits into its code and its index. -/
theorem romAddr_extract (a : RomAddr) : romAddr (a.extractLsb' 8 2) (a.extractLsb' 0 8) = a := by
  rw [romAddr, BitVec.extractLsb'_append_extractLsb'_eq_extractLsb' (show 8 = 0 + 8 from rfl), BitVec.extractLsb'_eq_self]

theorem getElem?_append_first_bank {l : List Byte} (hl : l.length = 256) (l' : List Byte) (idx : Byte) :
    (l ++ l')[idx.toNat]? = l[idx.toNat]? :=
  List.getElem?_append_left (hl ▸ idx.isLt)

theorem getElem?_append_later_bank {l : List Byte} (hl : l.length = 256) (l' : List Byte) (n : Nat) :
    (l ++ l')[256 + n]? = l'[n]? := by
  rw [List.getElem?_append_right (by omega), hl, Nat.add_sub_cancel_left]

/-- The bank of a code begins at 256 times the code. -/
theorem rom_getElem? (sel : WaveCode) (idx : Byte) : rom[sel.toNat * 256 + idx.toNat]? = (table sel)[idx.toNat]? := by
  have hrom : rom = table 0#2 ++ (table 1#2 ++ (table 2#2 ++ table 3#2)) := by
    simp only [rom, List.append_assoc]
  obtain rfl | rfl | rfl | rfl : sel = 0#2 ∨ sel = 1#2 ∨ sel = 2#2 ∨ sel = 3#2 := by
    revert sel
    decide
  · rw [hrom, show (0#2).toNat * 256 + idx.toNat = idx.toNat from Nat.zero_add _,
      getElem?_append_first_bank (table_length _)]
  · rw [hrom, show (1#2).toNat * 256 + idx.toNat = 256 + idx.toNat from rfl,
      getElem?_append_later_bank (table_length _), getElem?_append_first_bank (table_length _)]
  · rw [hrom, show (2#2).toNat * 256 + idx.toNat = 256 + (256 + idx.toNat) from Nat.add_assoc 256 256 _,
      getElem?_append_later_bank (table_length _), getElem?_append_later_bank (table_length _),
      getElem?_append_first_bank (table_length _)]
  · rw [hrom, show (3#2).toNat * 256 + idx.toNat = 256 + (256 + (256 + idx.toNat)) by
        simp only [BitVec.toNat_ofNat]; omega,
      getElem?_append_later_bank (table_length _), getElem?_append_later_bank (table_length _),
      getElem?_append_later_bank (table_length _)]

/-- RomRead reads the entry of the code's own table. -/
theorem romRead_eq_table (sel : WaveCode) (idx : Byte) : romRead sel idx = (table sel).getD idx.toNat 0#8 := by
  simp only [romRead, romByte, romAddr_toNat, List.getD_eq_getElem?_getD, rom_getElem?]

/-- Settles O48: the address and its halves determine each other, and each bank is its code's table. -/
theorem romAddressSelectsTheBank : Obligations.RomAddressSelectsTheBank :=
  ⟨fun sel idx => ⟨romAddr_toNat sel idx, romRead_eq_table sel idx⟩,
    fun a => ⟨_, _, (romAddr_extract a).symm⟩, rom_length⟩

end Machine
end Sys2Proof
end

section
/-! PROOFS. Reads, repeated commands, changes seen by the next TICK and the barrier of STOP: the other obligations of
20_memory.md. -/

namespace Sys2Proof

/-- Appending is adding the upper part at its place. -/
theorem toNat_append_eq_add {m n : Nat} (x : BitVec m) (y : BitVec n) :
    (x ++ y).toNat = 2 ^ n * x.toNat + y.toNat := by
  rw [BitVec.toNat_append, Nat.shiftLeft_eq, Nat.mul_comm, ← Nat.two_pow_add_eq_or_of_lt y.isLt]

/-- The clamp in the words of the rules: the larger of `lo` and what `hi` leaves of `x`. -/
theorem clamp_eq_max_min {x lo hi : Nat} (h : lo ≤ hi) : clamp x lo hi = max lo (min x hi) := by
  unfold clamp
  split
  · omega
  · split <;> omega

namespace Machine

/-! ## Runs of operations -/

/-- Every operation answers a next state. -/
theorem exec_eq_next (i : Instr) (s : State) : ∃ t, exec i s = .next t := by
  cases i with
  | tick =>
    simp only [exec, execTick]
    split <;> exact ⟨_, rfl⟩
  | setFreq _ | setWave _ | start _ | stop | illegal _ | rd _ | rst => exact ⟨_, rfl⟩

/-- A run that answers a next state comes through the next state of its head. -/
theorem execAll_cons_next {i : Instr} {is : List Instr} {s t : State} (h : execAll (i :: is) s = .next t) :
    ∃ u, exec i s = .next u ∧ execAll is u = .next t := by
  obtain ⟨u, hu⟩ := exec_eq_next i s
  exact ⟨u, hu, execAll_cons_of_next hu is ▸ h⟩

/-- An operation and a TICK after it that finds RUN = 1: the TICK takes one sample in the operation's next state. -/
theorem execAll_tick_next {i : Instr} {s t : State} (h : execAll [i, .tick] s = .next t) :
    ∃ u, exec i s = .next u ∧ (u.block.run = .running → t = samplePeriod u) := by
  obtain ⟨u, hu, hrest⟩ := execAll_cons_next h
  obtain ⟨t', ht, hnil⟩ := execAll_cons_next hrest
  injection hnil with hnil
  subst hnil
  refine ⟨u, hu, fun hrun => ?_⟩
  obtain ⟨hstop, -⟩ | ⟨-, heq⟩ := exec_tick_next ht
  · simp [hrun] at hstop
  · exact heq

/-! ## What an operation appends to the observed sequences -/

/-- The word of an entry of the observation that is a reply. -/
def Obs.replyWord? : Obs → Option Word
  | .reply _ w => some w
  | .sinkwr _ _ | .event _ | .sinkRead _ => none

/-- The sample of an entry of the observation that is a SINKWR. -/
def Obs.sample? : Obs → Option Byte
  | .sinkwr v _ => some v
  | .reply _ _ | .event _ | .sinkRead _ => none

theorem State.replies_eq (s : State) : s.replies = s.trace.filterMap Obs.replyWord? := by
  unfold State.replies
  congr 1
  funext o
  cases o <;> rfl

theorem State.samples_eq (s : State) : s.samples = s.trace.filterMap Obs.sample? := by
  unfold State.samples State.sinkWrites
  rw [List.map_filterMap]
  congr 1
  funext o
  cases o <;> rfl

theorem State.record_reply_replies (s : State) (a : Byte) (w : Word) :
    (s.record (.reply a w)).replies = s.replies ++ [w] := by
  simp [State.replies_eq, Obs.replyWord?]

/-- SET_WAVE sends no sample. -/
theorem exec_setWave_samples {p : Payload} {s t : State} (h : exec (.setWave p) s = .next t) : t.samples = s.samples := by
  obtain ⟨-, -, -, ht⟩ := exec_setWave_next h
  cases hc : isWaveCode p <;> simp [State.samples_eq, ht, hc, Obs.sample?]

/-- A sample period sends the entry of the active table at the index of the new accumulator. -/
theorem samplePeriod_samples (s : State) :
    (samplePeriod s).samples =
      s.samples ++ [romRead s.block.waveSel (phaseIndex (samplePeriod s).block.phaseAcc)] := by
  have hidx : s.block.nextPhase.1 = phaseIndex (samplePeriod s).block.phaseAcc := by
    simp [Block.nextPhase_index, Block.nextPhase_block, samplePeriod_block_eq]
  rw [← hidx, State.samples_eq, State.samples_eq, samplePeriod_trace]
  cases respOf s.env.drawSinkAnswer.1 <;> simp [Obs.sample?]

/-! ## The read port (rules R33, R34 and R35) -/

/-- STATUS as a number (rule R25). -/
theorem Block.status_toNat (b : Block) :
    b.status.toNat =
      16 * b.waveSel.toNat + 4 * b.sinkFault.toNat + 2 * b.cmdErr.toNat + (if b.run = .running then 1 else 0) := by
  have hwave := b.waveSel.isLt
  have hrun : b.run.bit.toNat = if b.run = .running then 1 else 0 := by
    cases b.run <;> rfl
  have hsink := b.sinkFault.toNat_le
  have hcmd := b.cmdErr.toNat_le
  simp only [Block.status, BitVec.toNat_setWidth, toNat_append_eq_add, BitVec.toNat_ofBool, hrun, BitVec.toNat_ofNat]
  split <;> omega

/-- The reserved addresses read 0. -/
theorem Block.readPort_reserved (b : Block) {a : Byte} (h : 5 ≤ a.toNat) : b.readPort a = 0#32 := by
  have hne : ∀ k < 5, a ≠ BitVec.ofNat 8 k := by
    rintro k hk rfl
    rw [BitVec.toNat_ofNat, Nat.mod_eq_of_lt (by omega)] at h
    omega
  rw [Block.readPort, if_neg (hne 0 (by decide)), if_neg (hne 1 (by decide)), if_neg (hne 2 (by decide)),
    if_neg (hne 3 (by decide)), if_neg (hne 4 (by decide))]

/-- The word at each address, as a number. -/
theorem Block.readPort_toNat (b : Block) (a : Byte) :
    (a.toNat = 0 → (b.readPort a).toNat =
      16 * b.waveSel.toNat + 4 * b.sinkFault.toNat + 2 * b.cmdErr.toNat + (if b.run = .running then 1 else 0)) ∧
    (a.toNat = 1 → (b.readPort a).toNat = b.freq.toNat) ∧
    (a.toNat = 2 → (b.readPort a).toNat = b.sampleRate.toNat) ∧
    (a.toNat = 3 → (b.readPort a).toNat = b.phaseAcc.toNat) ∧
    (a.toNat = 4 → (b.readPort a).toNat = b.phaseInc.toNat) ∧
    (5 ≤ a.toNat → (b.readPort a).toNat = 0) := by
  have haddr : ∀ {k : Nat} (hk : k < 256), a.toNat = k → a = BitVec.ofNat 8 k := fun hk h =>
    BitVec.eq_of_toNat_eq (by rw [h, BitVec.toNat_ofNat, Nat.mod_eq_of_lt hk])
  refine ⟨fun h => ?_, fun h => ?_, fun h => ?_, fun h => ?_, fun h => ?_, fun h => ?_⟩
  · rw [haddr (by decide) h]
    exact b.status_toNat
  · rw [haddr (by decide) h]
    exact BitVec.toNat_setWidth_of_le (show 25 ≤ 32 by decide)
  · rw [haddr (by decide) h]
    exact BitVec.toNat_setWidth_of_le (show 20 ≤ 32 by decide)
  · rw [haddr (by decide) h]
    exact BitVec.toNat_setWidth_of_le (show 16 ≤ 32 by decide)
  · rw [haddr (by decide) h]
    exact BitVec.toNat_setWidth_of_le (show 16 ≤ 32 by decide)
  · rw [b.readPort_reserved h]
    rfl

theorem exec_rd (a : Byte) (s : State) : exec (.rd a) s = .next (s.record (.reply a (s.block.readPort a))) := rfl

/-- Settles O21: RD records the word of the read port. -/
theorem readReturnsTheWordAtItsAddress : Obligations.ReadReturnsTheWordAtItsAddress := fun a s =>
  ⟨s.block.readPort a, exec_rd a s, s.block.readPort_toNat a⟩

/-- Settles O23, by induction on the addresses: a read leaves the registers that the next one reads. -/
theorem readsHaveNoSideEffects : Obligations.ReadsHaveNoSideEffects := by
  intro addrs
  induction addrs with
  | nil => exact fun s => ⟨s, rfl, rfl, rfl, rfl, (List.append_nil _).symm⟩
  | cons a addrs ih =>
    intro s
    obtain ⟨t, hrun, hblock, hsink, henv, hreplies⟩ := ih (s.record (.reply a (s.block.readPort a)))
    refine ⟨t, (execAll_cons_of_next (exec_rd a s) _).trans hrun, hblock, hsink, henv, ?_⟩
    rw [hreplies, State.record_reply_replies]
    simp

/-! ## Repeated commands (rule R39) -/

/-- Writing FREQ and the increment again with the same value changes nothing. -/
theorem Block.setFreq_updateIncrement_idem (b : Block) (v : FreqBits) :
    ((b.setFreq v).updateIncrement.setFreq v).updateIncrement = (b.setFreq v).updateIncrement := rfl

theorem Block.setWaveSel_idem (b : Block) (v : WaveCode) : (b.setWaveSel v).setWaveSel v = b.setWaveSel v := rfl

theorem Block.setRun_idem (b : Block) (v : RunState) : (b.setRun v).setRun v = b.setRun v := rfl

/-- A START with the same rate finds the rate, the increment and RUN that it writes. -/
theorem Block.startRate_idem (b : Block) (r : RateBits) :
    ((((b.setSampleRate r).updateIncrement.setRun .running).setSampleRate r).updateIncrement.setRun .running) =
      (b.setSampleRate r).updateIncrement.setRun .running := rfl

/-- Settles O38: each command writes values that its payload and the registers it leaves alone determine. -/
theorem repeatedCommandsLeaveTheSameState : Obligations.RepeatedCommandsLeaveTheSameState := by
  rintro i s t u (⟨p, rfl⟩ | ⟨p, rfl⟩ | ⟨p, rfl⟩ | rfl) ht hu
  · obtain ⟨hb, -⟩ := exec_setFreq_next ht
    obtain ⟨hb', hk, he, -⟩ := exec_setFreq_next hu
    exact ⟨by rw [hb', hb, Block.setFreq_updateIncrement_idem], hk, he⟩
  · obtain ⟨hb, -⟩ := exec_setWave_next ht
    obtain ⟨hb', hk, he, -⟩ := exec_setWave_next hu
    exact ⟨by rw [hb', hb, Block.setWaveSel_idem], hk, he⟩
  · obtain ⟨-, -, hcase⟩ := exec_start_next ht
    obtain ⟨hk, he, hcase'⟩ := exec_start_next hu
    refine ⟨?_, hk, he⟩
    obtain ⟨hp, hb, -⟩ | ⟨hp, hb, -⟩ := hcase
    · obtain ⟨-, hb', -⟩ | ⟨hp', -⟩ := hcase'
      · rw [hb', hb, Block.startRate_idem]
      · simp [hp] at hp'
    · obtain ⟨hp', -⟩ | ⟨-, hb', -⟩ := hcase'
      · simp [hp] at hp'
      · rw [hb', hb, Block.setRun_idem]
  · rw [exec_stop_next hu, exec_stop_next ht]
    exact ⟨Block.setRun_idem _ _, rfl, rfl⟩

/-! ## Changes seen by the next TICK (rules R43, R44 and R125) -/

/-- A sample period advances the accumulator by the increment it finds, however the increment was reduced. -/
theorem samplePeriod_phaseAcc_toNat {u : State} {q : Nat} (h : u.block.phaseInc.toNat = q % 65536) :
    (samplePeriod u).block.phaseAcc.toNat = (u.block.phaseAcc.toNat + q) % 65536 := by
  simp [samplePeriod_block_eq, h]

theorem clampFreq_toNat_eq (p : Payload) : (clampFreq p).toNat = max 100 (min p.toNat 20000000) := by
  rw [clampFreq_toNat, clamp_eq_max_min (by decide)]

theorem clampRate_toNat_eq {p : Payload} (hp : p ≠ 0#28) : (clampRate p).toNat = min p.toNat 1000000 := by
  have hpos : p.toNat ≠ 0 := fun h => hp (BitVec.eq_of_toNat_eq h)
  have hclamp : clamp p.toNat Config.srMin Config.srMax = max 1 (min p.toNat 1000000) := clamp_eq_max_min (by decide)
  rw [clampRate_toNat, hclamp]
  omega

theorem resolveWave_eq (p : Payload) : resolveWave p = BitVec.ofNat 2 (if p.toNat < 4 then p.toNat else 0) := by
  by_cases hp : p.toNat < 4
  · have hcode : isWaveCode p = true := by
      simp only [isWaveCode, decide_eq_true_eq]
      omega
    simp [resolveWave, hcode, hp]
  · have hcode : isWaveCode p = false := by
      simp only [isWaveCode, decide_eq_false_iff_not]
      omega
    simp [resolveWave, hcode, hp]

/-- Rule R43: the TICK after SET_FREQ advances by the increment of the new frequency. -/
theorem setFreq_tick_phaseAcc {p : Payload} {s t : State} (hrun : s.block.run = .running)
    (hrate : s.block.sampleRate ≠ 0#20) (h : execAll [.setFreq p, .tick] s = .next t) :
    t.block.phaseAcc.toNat =
      (s.block.phaseAcc.toNat + max 100 (min p.toNat 20000000) * 65536 / (1000 * s.block.sampleRate.toNat)) % 65536 := by
  obtain ⟨u, hu, htick⟩ := execAll_tick_next h
  obtain ⟨hb, -⟩ := exec_setFreq_next hu
  have hinc : u.block.phaseInc.toNat =
      max 100 (min p.toNat 20000000) * 65536 / (1000 * s.block.sampleRate.toNat) % 65536 := by
    rw [hb, Block.updateIncrement_phaseInc_toNat (b := s.block.setFreq (clampFreq p)) hrate, Block.setFreq_freq,
      Block.setFreq_sampleRate, clampFreq_toNat_eq]
  rw [htick (by simp [hb, hrun]), samplePeriod_phaseAcc_toNat hinc]
  simp [hb]

/-- Rule R43: the TICK after a START with a sample rate advances by the increment of the new rate. -/
theorem start_tick_phaseAcc {p : Payload} {s t : State} (hp : p ≠ 0#28) (h : execAll [.start p, .tick] s = .next t) :
    t.block.phaseAcc.toNat =
      (s.block.phaseAcc.toNat + s.block.freq.toNat * 65536 / (1000 * min p.toNat 1000000)) % 65536 := by
  obtain ⟨u, hu, htick⟩ := execAll_tick_next h
  obtain ⟨-, -, ⟨-, hb, -⟩ | ⟨hnone, -⟩⟩ := exec_start_next hu
  · have hinc : u.block.phaseInc.toNat = s.block.freq.toNat * 65536 / (1000 * min p.toNat 1000000) % 65536 := by
      rw [hb, Block.setRun_phaseInc, Block.updateIncrement_phaseInc_toNat (clampRate_ne_zero p),
        Block.setSampleRate_freq, Block.setSampleRate_sampleRate, clampRate_toNat_eq hp]
    rw [htick (by simp [hb]), samplePeriod_phaseAcc_toNat hinc]
    simp [hb]
  · exact absurd (by simpa [suppliesRate] using hnone) hp

/-- Rule R44: the TICK after SET_WAVE sends one sample, of the new table. -/
theorem setWave_tick_samples {p : Payload} {s t : State} (hrun : s.block.run = .running)
    (h : execAll [.setWave p, .tick] s = .next t) :
    t.samples = s.samples ++
      [romRead (BitVec.ofNat 2 (if p.toNat < 4 then p.toNat else 0)) (phaseIndex t.block.phaseAcc)] := by
  obtain ⟨u, hu, htick⟩ := execAll_tick_next h
  obtain ⟨hb, -⟩ := exec_setWave_next hu
  have hwave : u.block.waveSel = BitVec.ofNat 2 (if p.toNat < 4 then p.toNat else 0) := by
    rw [hb, Block.setWaveSel_waveSel, resolveWave_eq]
  rw [htick (by simp [hb, hrun]), samplePeriod_samples, exec_setWave_samples hu, hwave]

/-- Settles O29: a TICK runs in the next state of the operation before it. -/
theorem changesAreSeenByTheNextTick : Obligations.ChangesAreSeenByTheNextTick := fun _ _ _ =>
  ⟨setFreq_tick_phaseAcc, start_tick_phaseAcc, setWave_tick_samples⟩

/-! ## STOP as a barrier (rule R45) -/

theorem exec_tick_of_stopped {s : State} (h : s.block.run = .stopped) : exec .tick s = .next s := by
  simp only [exec, execTick, h]

/-- Only START leaves RUN = 0. -/
theorem exec_keeps_stopped {i : Instr} {s t : State} (hi : ∀ p, i ≠ .start p) (hs : s.block.run = .stopped)
    (h : exec i s = .next t) : t.block.run = .stopped := by
  by_contra hne
  obtain ⟨-, -, -, -, -, hwriter, -⟩ := registersChangeOnlyByTheirWriters i s t h
  obtain ⟨p, hp⟩ | rfl | rfl := hwriter (hs ▸ hne)
  · exact hi p hp
  · exact hne (by rw [exec_stop_next h]; rfl)
  · exact hne (by rw [exec_rst_next h]; rfl)

/-- Without a START, a run from RUN = 0 is the run without its TICKs, and it ends with RUN = 0. -/
theorem execAll_of_stopped {is : List Instr} {s : State} (his : ∀ p, Instr.start p ∉ is) (hs : s.block.run = .stopped) :
    execAll is s = execAll (is.filter (· ≠ .tick)) s ∧ ∃ t, execAll is s = .next t ∧ t.block.run = .stopped := by
  induction is generalizing s with
  | nil => exact ⟨rfl, s, rfl, hs⟩
  | cons i is ih =>
    have hi : ∀ p, i ≠ .start p := fun p hp => his p (hp ▸ List.mem_cons_self)
    have htail : ∀ p, Instr.start p ∉ is := fun p hp => his p (List.mem_cons_of_mem _ hp)
    obtain ⟨u, hu⟩ := exec_eq_next i s
    obtain ⟨heq, hend⟩ := ih htail (exec_keeps_stopped hi hs hu)
    rw [execAll_cons_of_next hu]
    refine ⟨?_, hend⟩
    by_cases htick : i = .tick
    · subst htick
      obtain rfl : s = u := by
        injection (exec_tick_of_stopped hs).symm.trans hu
      simpa using heq
    · rw [List.filter_cons_of_pos (by simpa using htick), execAll_cons_of_next hu]
      exact heq

/-- Settles O39: STOP leaves RUN = 0, and from there no TICK counts. -/
theorem noTickHasAnEffectAfterStop : Obligations.NoTickHasAnEffectAfterStop := by
  intro is s his
  have hstop : exec .stop s = .next (s.setBlock (s.block.setRun .stopped)) := rfl
  rw [execAll_cons_of_next hstop, execAll_cons_of_next hstop]
  obtain ⟨heq, t, ht, hrun⟩ := execAll_of_stopped his (s := s.setBlock (s.block.setRun .stopped)) rfl
  exact ⟨heq, t, ht, hrun, by simp [Block.trigArm, hrun]⟩

end Machine
end Sys2Proof
end

section
/-! PROOFS. Decoding and encoding of transactions: the obligations of 30_encoding.md about words, bytes, lines and SINKWR. -/

namespace Sys2Proof

/-! ## The fields of a command word as numbers (rules R50 and R51) -/

theorem opOf_eq_iff {w : Word} {o : Opcode} : opOf w = o ↔ w.toNat / 2 ^ 28 = o.toNat := by
  rw [← BitVec.toNat_inj, opOf_toNat]

theorem payOf_eq_ofNat (w : Word) : payOf w = BitVec.ofNat 28 (w.toNat % 2 ^ 28) := by
  rw [← payOf_toNat, BitVec.ofNat_toNat, BitVec.setWidth_eq]

/-- A word with a known opcode is that opcode above its payload. -/
theorem append_payOf_of_opOf {w : Word} {o : Opcode} (h : opOf w = o) : (o ++ payOf w : Word) = w := by
  rw [← h, opOf_append_payOf]

theorem eq_stopWord_iff {w : Word} : w = 0x40000000#32 ↔ w.toNat / 2 ^ 28 = 4 ∧ w.toNat % 2 ^ 28 = 0 := by
  rw [← BitVec.toNat_inj, BitVec.toNat_ofNat]
  omega

/-! ## The five kinds of word (rules R52, R53 and R63) -/

theorem spellsCommand_iff {w : Word} :
    spellsCommand w = true ↔ opOf w = 0x1#4 ∨ opOf w = 0x2#4 ∨ opOf w = 0x3#4 ∨ w = 0x40000000#32 := by
  rw [← opcodeMask_hits w 0x1#4, ← opcodeMask_hits w 0x2#4, ← opcodeMask_hits w 0x3#4]
  simp [spellsCommand, or_assoc]

theorem spellsCommand_eq_false_iff {w : Word} :
    spellsCommand w = false ↔ opOf w ≠ 0x1#4 ∧ opOf w ≠ 0x2#4 ∧ opOf w ≠ 0x3#4 ∧ w ≠ 0x40000000#32 := by
  rw [← Bool.not_eq_true, spellsCommand_iff, not_or, not_or, not_or]

/-- Every word has one of three opcodes, is the word of STOP, or spells no command. -/
theorem word_cases (w : Word) :
    opOf w = 0x1#4 ∨ opOf w = 0x2#4 ∨ opOf w = 0x3#4 ∨ w = 0x40000000#32 ∨ spellsCommand w = false := by
  rw [spellsCommand_eq_false_iff]
  tauto

theorem decodeCmd_of_opOf_one {w : Word} (h : opOf w = 0x1#4) : decodeCmd w = .setFreq (payOf w) := by
  simp [decodeCmd, h]

theorem decodeCmd_of_opOf_two {w : Word} (h : opOf w = 0x2#4) : decodeCmd w = .setWave (payOf w) := by
  simp [decodeCmd, h]

theorem decodeCmd_of_opOf_three {w : Word} (h : opOf w = 0x3#4) : decodeCmd w = .start (payOf w) := by
  simp [decodeCmd, h]

theorem decodeCmd_stopWord : decodeCmd 0x40000000#32 = .stop := by decide

theorem decodeCmd_of_spellsCommand_false {w : Word} (h : spellsCommand w = false) : decodeCmd w = .illegal w := by
  obtain ⟨hne1, hne2, hne3, hneStop⟩ := spellsCommand_eq_false_iff.mp h
  have hstop : ¬(opOf w = 0x4#4 ∧ payOf w = 0#28) := fun ⟨hop, hpay⟩ =>
    hneStop (hpay ▸ append_payOf_of_opOf hop).symm
  rw [decodeCmd, if_neg hne1, if_neg hne2, if_neg hne3, if_neg hstop]

/-! ## Decoding undoes encoding, and encoding undoes decoding -/

/-- Settles O4: the opcode of an encoding is its row's and the payload is its operand; an ILLEGAL word is its own. -/
theorem decodeOfEncodeIsTheInstruction : Obligations.DecodeOfEncodeIsTheInstruction := by
  intro i hi
  cases i with
  | setFreq p => exact (decodeCmd_of_opOf_one (opOf_append _ p)).trans (by rw [payOf_append])
  | setWave p => exact (decodeCmd_of_opOf_two (opOf_append _ p)).trans (by rw [payOf_append])
  | start p => exact (decodeCmd_of_opOf_three (opOf_append _ p)).trans (by rw [payOf_append])
  | stop => exact decodeCmd_stopWord
  | illegal w => exact decodeCmd_of_spellsCommand_false (by simpa [Instr.wellFormed] using hi)
  | rd _ | tick | rst => rfl

theorem encode_decodeCmd (w : Word) : (decodeCmd w).wellFormed = true ∧ encode (decodeCmd w) = .cmd w := by
  obtain hop | hop | hop | rfl | hill := word_cases w
  · rw [decodeCmd_of_opOf_one hop]
    exact ⟨rfl, congrArg _ (append_payOf_of_opOf hop)⟩
  · rw [decodeCmd_of_opOf_two hop]
    exact ⟨rfl, congrArg _ (append_payOf_of_opOf hop)⟩
  · rw [decodeCmd_of_opOf_three hop]
    exact ⟨rfl, congrArg _ (append_payOf_of_opOf hop)⟩
  · rw [decodeCmd_stopWord]
    exact ⟨rfl, rfl⟩
  · rw [decodeCmd_of_spellsCommand_false hill]
    exact ⟨by simp [Instr.wellFormed, hill], rfl⟩

/-- Settles O5: a command word is rebuilt from its opcode and payload; the other channels carry their operand as it is. -/
theorem encodeOfDecodeIsTheTransaction : Obligations.EncodeOfDecodeIsTheTransaction := by
  intro t
  cases t with
  | cmd w => exact encode_decodeCmd w
  | rd _ | tick | rst => exact ⟨rfl, rfl⟩

/-- Settles O2, from the two round trips: a word that decodes to STOP is STOP's encoding, and every payload is read back from
its encoding. -/
theorem stopHasOneEncodingAndOthersUseEveryPayload : Obligations.StopHasOneEncodingAndOthersUseEveryPayload := by
  refine ⟨fun w => ⟨fun h => ?_, ?_⟩, fun p => ⟨⟨0x1#4 ++ p, ?_⟩, ⟨0x2#4 ++ p, ?_⟩, ⟨0x3#4 ++ p, ?_⟩⟩⟩
  · have hw : encode .stop = .cmd w := h ▸ (encodeOfDecodeIsTheTransaction (.cmd w)).2
    exact (Transaction.cmd.inj hw).symm
  · rintro rfl
    exact decodeCmd_stopWord
  · exact decodeOfEncodeIsTheInstruction (.setFreq p) rfl
  · exact decodeOfEncodeIsTheInstruction (.setWave p) rfl
  · exact decodeOfEncodeIsTheInstruction (.start p) rfl

/-- Settles O1: the five kinds of word, by the numbers in their two fields. -/
theorem everyWordDecodesByOpcodeAndPayload : Obligations.EveryWordDecodesByOpcodeAndPayload := by
  intro w
  have hillegal (hop : w.toNat / 2 ^ 28 = 0 ∨ 4 ≤ w.toNat / 2 ^ 28)
      (hstop : ¬(w.toNat / 2 ^ 28 = 4 ∧ w.toNat % 2 ^ 28 = 0)) : decode (.cmd w) = .illegal w := by
    apply decodeCmd_of_spellsCommand_false
    simp only [spellsCommand_eq_false_iff, ne_eq, opOf_eq_iff, eq_stopWord_iff, BitVec.toNat_ofNat]
    omega
  rw [← payOf_eq_ofNat]
  refine ⟨fun h => ?_, fun h => ?_, fun h => ?_, fun h => ?_, fun h => ?_, fun h => ?_⟩
  · exact decodeCmd_of_opOf_one (opOf_eq_iff.mpr h)
  · exact decodeCmd_of_opOf_two (opOf_eq_iff.mpr h)
  · exact decodeCmd_of_opOf_three (opOf_eq_iff.mpr h)
  · rw [eq_stopWord_iff.mpr h]
    exact decodeCmd_stopWord
  · exact hillegal (by omega) (by omega)
  · exact hillegal (by omega) (by omega)

/-- Settles O6, by running the decoder on each of the nine transactions. -/
theorem spelledWordsDecode : Obligations.SpelledWordsDecode := by
  unfold Obligations.SpelledWordsDecode
  decide

/-! ## The opcode map as data (rule R52) -/

/-- A row of the opcode map that is keyed by the opcode alone. -/
def opcodeRow (o : Opcode) (build : Payload → Instr) : OpcodeRow := ⟨o ++ 0#28, 0xF0000000#32, build⟩

@[simp] theorem opcodeRow_build (o : Opcode) (build : Payload → Instr) : (opcodeRow o build).build = build := rfl

@[simp] theorem opOf_opcodeRow_pattern (o : Opcode) (build : Payload → Instr) :
    opOf (opcodeRow o build).pattern = o :=
  opOf_append o 0#28

/-- STOP's row, keyed by the whole word. -/
def stopRow : OpcodeRow := ⟨0x40000000#32, 0xFFFFFFFF#32, fun _ => .stop⟩

theorem opcodeRows_eq :
    opcodeRows = [opcodeRow 0x1#4 .setFreq, opcodeRow 0x2#4 .setWave, opcodeRow 0x3#4 .start, stopRow] := rfl

@[simp] theorem opcodeRow_hits (o : Opcode) (build : Payload → Instr) (w : Word) :
    (opcodeRow o build).hits w = decide (opOf w = o) := by
  rw [Bool.eq_iff_iff, decide_eq_true_iff, ← opcodeMask_hits, OpcodeRow.hits, beq_iff_eq, opcodeRow]

@[simp] theorem stopRow_hits (w : Word) : stopRow.hits w = decide (w = 0x40000000#32) := by
  rw [Bool.eq_iff_iff, decide_eq_true_iff, OpcodeRow.hits, beq_iff_eq, stopRow, wholeMask_and]

theorem decodeByRows_eq_decodeCmd (w : Word) : decodeByRows w = decodeCmd w := by
  unfold decodeByRows
  obtain hop | hop | hop | rfl | hill := word_cases w
  · simp [opcodeRows_eq, hop, decodeCmd_of_opOf_one hop]
  · simp [opcodeRows_eq, hop, decodeCmd_of_opOf_two hop]
  · simp [opcodeRows_eq, hop, decodeCmd_of_opOf_three hop]
  · decide
  · obtain ⟨hne1, hne2, hne3, hneStop⟩ := spellsCommand_eq_false_iff.mp hill
    simp [opcodeRows_eq, hne1, hne2, hne3, hneStop, decodeCmd_of_spellsCommand_false hill]

/-- A word that a row hits has the opcode of the row's pattern. -/
theorem opOf_eq_of_hits {r : OpcodeRow} {w : Word} (hr : r ∈ opcodeRows) (h : r.hits w = true) :
    opOf w = opOf r.pattern := by
  rw [opcodeRows_eq] at hr
  simp only [List.mem_cons, List.not_mem_nil, or_false] at hr
  obtain rfl | rfl | rfl | rfl := hr
  · simpa using h
  · simpa using h
  · simpa using h
  · obtain rfl : w = 0x40000000#32 := by simpa using h
    rfl

theorem opcodeRows_pairwise_opOf_ne : opcodeRows.Pairwise fun r r' => opOf r.pattern ≠ opOf r'.pattern := by
  simp only [opcodeRows, List.pairwise_cons]
  decide

/-- Settles O3: the rows have four different opcodes, and each hits the words that its branch of the decoder takes. -/
theorem opcodeRowsAreDisjointAndSpellTheDecoder : Obligations.OpcodeRowsAreDisjointAndSpellTheDecoder := by
  refine ⟨fun w => (decodeByRows_eq_decodeCmd w).symm, opcodeRows_pairwise_opOf_ne.imp_of_mem ?_⟩
  intro r r' hr hr' hne w ⟨h, h'⟩
  exact hne ((opOf_eq_of_hits hr h).symm.trans (opOf_eq_of_hits hr' h'))

/-! ## Bytes on a channel (rules R50, R58, R59, R60 and R62) -/

theorem transactionOfBytes_channel {o : ByteOrder} {ch : Channel} {bytes : List Byte} {t : Transaction}
    (h : transactionOfBytes o ch bytes = .ok t) : t.channel = ch := by
  unfold transactionOfBytes at h
  cases ch with
  | cmd | rd | tick | rst =>
    simp only at h
    split at h
    · injection h with h
      subst h
      rfl
    · cases h

theorem transactionOfBytes_cmd_iff {o : ByteOrder} {bytes : List Byte} :
    (∃ t, transactionOfBytes o .cmd bytes = .ok t) ↔ bytes.length = 4 := by
  rw [List.length_eq_four]
  constructor
  · rintro ⟨t, h⟩
    simp only [transactionOfBytes] at h
    split at h
    · exact ⟨_, _, _, _, rfl⟩
    · cases h
  · rintro ⟨a, b, c, d, rfl⟩
    exact ⟨_, rfl⟩

theorem transactionOfBytes_rd_iff {o : ByteOrder} {bytes : List Byte} :
    (∃ t, transactionOfBytes o .rd bytes = .ok t) ↔ bytes.length = 1 := by
  rw [List.length_eq_one_iff]
  constructor
  · rintro ⟨t, h⟩
    simp only [transactionOfBytes] at h
    split at h
    · exact ⟨_, rfl⟩
    · cases h
  · rintro ⟨a, rfl⟩
    exact ⟨_, rfl⟩

theorem transactionOfBytes_tick_iff {o : ByteOrder} {bytes : List Byte} :
    (∃ t, transactionOfBytes o .tick bytes = .ok t) ↔ bytes.length = 0 := by
  cases bytes <;> simp [transactionOfBytes]

theorem transactionOfBytes_rst_iff {o : ByteOrder} {bytes : List Byte} :
    (∃ t, transactionOfBytes o .rst bytes = .ok t) ↔ bytes.length = 0 := by
  cases bytes <;> simp [transactionOfBytes]

/-- Settles O8: bytes that make a transaction make one of their channel, and each channel has its length. -/
theorem bytesMakeATransactionExactlyAtTheChannelsLength :
    Obligations.BytesMakeATransactionExactlyAtTheChannelsLength := by
  intro o ch bytes
  have hch : (∃ t : Transaction, t.channel = ch ∧ transactionOfBytes o ch bytes = .ok t) ↔
      ∃ t, transactionOfBytes o ch bytes = .ok t :=
    exists_congr fun t => and_iff_right_of_imp transactionOfBytes_channel
  rw [hch]
  cases ch with
  | cmd => exact transactionOfBytes_cmd_iff
  | rd => exact transactionOfBytes_rd_iff
  | tick => exact transactionOfBytes_tick_iff
  | rst => exact transactionOfBytes_rst_iff

namespace Machine

/-! ## SINKWRs (rule R61) -/

/-- The sample and the response of an entry of the observation that is a SINKWR. -/
def Obs.sinkwr? : Obs → Option (Byte × SinkResp)
  | .sinkwr v r => some (v, r)
  | .reply _ _ | .event _ | .sinkRead _ => none

theorem State.sinkWrites_eq (s : State) : s.sinkWrites = s.trace.filterMap Obs.sinkwr? :=
  List.filterMap_congr fun o _ => by cases o <;> rfl

/-- No operation but TICK issues a SINKWR. -/
theorem exec_sinkWrites_of_ne_tick {i : Instr} {s t : State} (hi : i ≠ .tick) (h : exec i s = .next t) :
    t.sinkWrites = s.sinkWrites := by
  rw [State.sinkWrites_eq, State.sinkWrites_eq]
  cases i with
  | setFreq p =>
    obtain ⟨-, -, -, ht⟩ := exec_setFreq_next h
    cases hc : freqIsClamped p <;> simp [ht, hc, Obs.sinkwr?]
  | setWave p =>
    obtain ⟨-, -, -, ht⟩ := exec_setWave_next h
    cases hc : isWaveCode p <;> simp [ht, hc, Obs.sinkwr?]
  | start p =>
    obtain ⟨-, -, ⟨-, -, ht⟩ | ⟨-, -, ht⟩⟩ := exec_start_next h
    · cases hc : rateIsClamped p <;> simp [ht, hc, Obs.sinkwr?]
    · rw [ht]
  | stop => rw [exec_stop_next h, State.setBlock_trace]
  | illegal w => simp [exec_illegal_next h, Obs.sinkwr?]
  | rd a => simp [exec_rd_next h, Obs.sinkwr?]
  | tick => exact absurd rfl hi
  | rst => rw [exec_rst_next h, State.setBlock_trace]

/-- A sample period issues one SINKWR, of the sample it fetched. -/
theorem samplePeriod_sinkWrites (s : State) :
    (samplePeriod s).sinkWrites =
      s.sinkWrites ++ [(romRead s.block.waveSel s.block.nextPhase.1, respOf s.env.drawSinkAnswer.1)] := by
  rw [State.sinkWrites_eq, State.sinkWrites_eq, samplePeriod_trace]
  cases respOf s.env.drawSinkAnswer.1 <;> simp [Obs.sinkwr?]

/-- Settles O26: a TICK takes one sample period or does nothing, and the other operations issue no SINKWR. -/
theorem oneSinkwrPerRunningTickAndNoOther : Obligations.OneSinkwrPerRunningTickAndNoOther := by
  intro i s t h
  by_cases htick : i = .tick
  · subst htick
    obtain ⟨hrun, rfl⟩ | ⟨hrun, rfl⟩ := exec_tick_next h
    · exact ⟨[], by simp, by simp [hrun]⟩
    · exact ⟨_, samplePeriod_sinkWrites s, by simp [hrun]⟩
  · exact ⟨[], by simp [exec_sinkWrites_of_ne_tick htick h], by simp [htick]⟩

/-! ## Assembly lines (rule R64) -/

theorem assembleCmd_toNat (op : Opcode) (p : Payload) : assembleCmd op p.toNat = .ok (.cmd (op ++ p)) := by
  rw [assembleCmd, if_pos p.isLt, BitVec.ofNat_toNat, BitVec.setWidth_eq]

theorem assembleCmd_of_le {n : Nat} (op : Opcode) (h : 2 ^ 28 ≤ n) : assembleCmd op n = .error .operandTooWide :=
  if_neg (Nat.not_lt.mpr h)

theorem assembleLine_word_toNat (w : Word) : assembleLine (.word w.toNat) = .ok (.cmd w) := by
  rw [assembleLine, if_pos w.isLt, BitVec.ofNat_toNat, BitVec.setWidth_eq]

theorem assembleLine_rd_toNat (a : Byte) : assembleLine (.rd a.toNat) = .ok (.rd a) := by
  rw [assembleLine, if_pos a.isLt, BitVec.ofNat_toNat, BitVec.setWidth_eq]

/-- Settles O56: an operand that fits its field assembles to itself in the field, and one that does not fails the test. -/
theorem linesAssembleToTheirEncoding : Obligations.LinesAssembleToTheirEncoding := by
  refine ⟨fun p => ⟨?_, ?_, ?_⟩, assembleLine_word_toNat, assembleLine_rd_toNat, ⟨rfl, rfl, rfl⟩,
    fun n h => ⟨?_, ?_, ?_⟩, fun n h => if_neg (Nat.not_lt.mpr h), fun n h => if_neg (Nat.not_lt.mpr h)⟩
  · exact assembleCmd_toNat _ p
  · exact assembleCmd_toNat _ p
  · exact assembleCmd_toNat _ p
  · exact assembleCmd_of_le _ h
  · exact assembleCmd_of_le _ h
  · exact assembleCmd_of_le _ h

end Machine
end Sys2Proof
end

section
/-! PROOFS. The increment, the phase accumulator and the samples of ticks in a row: the obligations of 40_frequency.md. -/

namespace Sys2Proof.Machine

/-! ## The scaler (rules R71 and R72) -/

/-- Settles O30: no intermediate of a legal block reaches `2 ^ 41`, so none is reduced in `w` bits. -/
theorem scalerDatapathOf41BitsIsExact : Obligations.ScalerDatapathOf41BitsIsExact := by
  rintro b ⟨⟨-, hfreq⟩, ⟨hrate, hrate'⟩, -⟩
  have hnum : b.freq.toNat * 65536 < 2 ^ 41 := by omega
  have hden : 1000 * b.sampleRate.toNat < 2 ^ 30 := by omega
  have hne : b.sampleRate ≠ 0#20 := by
    intro h0
    simp [h0] at hrate
  refine ⟨hnum, hden, ?_, fun w hw => ?_⟩
  · rw [scaledIncrement_of_ne_zero hne]
    exact Nat.div_lt_of_lt_mul (by omega)
  · have hfits : ∀ {x : Nat}, x < 2 ^ 41 → x % 2 ^ w = x := fun hx =>
      Nat.mod_eq_of_lt (hx.trans_le (Nat.pow_le_pow_right (by decide) hw))
    simp only [scaledIncrementIn, BitVec.toNat_udiv, BitVec.toNat_mul, BitVec.toNat_setWidth, BitVec.toNat_ofNat]
    rw [hfits (x := b.freq.toNat) (by omega), hfits (x := 65536) (by decide), hfits hnum,
      hfits (x := 1000) (by decide), hfits (x := b.sampleRate.toNat) (by omega), hfits (by omega)]

/-- Settles O31: the increment's invariant, and that a sum modulo `2 ^ 16` does not see a term reduced modulo `2 ^ 16`. -/
theorem reducedIncrementGivesTheUnreducedPhase : Obligations.ReducedIncrementGivesTheUnreducedPhase := by
  rintro b ⟨-, -, hinc⟩
  rw [Block.nextPhase_acc_toNat, hinc, Nat.add_mod_mod]

/-! ## SET_FREQ (rules R68 and R69) -/

theorem State.eq_of_parts {s t : State} (hblock : s.block = t.block) (hsink : s.sink = t.sink) (henv : s.env = t.env)
    (htrace : s.trace = t.trace) : s = t := by
  cases s
  cases t
  simp_all

theorem freqIsClamped_iff (p : Payload) : freqIsClamped p = true ↔ p.toNat < 100 ∨ 20000000 < p.toNat := by
  have hclamp : clamp p.toNat Config.fMinMhz Config.fMaxMhz = p.toNat ↔ 100 ≤ p.toNat ∧ p.toNat ≤ 20000000 :=
    clamp_eq_self_iff (by decide)
  rw [freqIsClamped, bne_iff_ne, ne_eq, hclamp]
  omega

theorem clampFreq_eq (p : Payload) : clampFreq p = BitVec.ofNat 25 (max 100 (min p.toNat 20000000)) := by
  rw [← clampFreq_toNat_eq, BitVec.ofNat_toNat, BitVec.setWidth_eq]

/-- Settles O15: the parts of the next state of SET_FREQ, with the clamp and the quotient written out. -/
theorem setFreqWritesFrequencyAndIncrement : Obligations.SetFreqWritesFrequencyAndIncrement := by
  intro p s hrate
  obtain ⟨t, ht⟩ := exec_eq_next (.setFreq p) s
  obtain ⟨hblock, hsink, henv, htrace⟩ := exec_setFreq_next ht
  rw [ht]
  refine congrArg _ (State.eq_of_parts ?_ hsink henv ?_)
  · rw [hblock, Block.updateIncrement_eq (b := s.block.setFreq (clampFreq p)) hrate, Block.setFreq_freq,
      clampFreq_toNat_eq, clampFreq_eq]
    rfl
  · simp only [htrace, freqIsClamped_iff]

/-! ## The phase under one operation (rules R73 and R74) -/

/-- Any operation but RST leaves the phase or advances it by one increment, and only a TICK with RUN = 1 advances it. -/
theorem exec_phaseAcc_eq {i : Instr} {s t : State} (hi : i ≠ .rst) (h : exec i s = .next t) :
    t.block.phaseAcc =
      if i = .tick ∧ s.block.run = .running then s.block.phaseAcc + s.block.phaseInc else s.block.phaseAcc := by
  split
  · next htick =>
    obtain ⟨rfl, hrun⟩ := htick
    obtain ⟨hstop, -⟩ | ⟨-, rfl⟩ := exec_tick_next h
    · simp [hrun] at hstop
    · simp [samplePeriod_block_eq]
  · next htick =>
    by_contra hne
    obtain ⟨-, -, hwriter, -⟩ := registersChangeOnlyByTheirWriters i s t h
    exact (hwriter hne).elim htick hi

theorem exec_phaseInc_eq {i : Instr} {s t : State} (hi : mayWriteIncrement i = false) (h : exec i s = .next t) :
    t.block.phaseInc = s.block.phaseInc := by
  by_contra hne
  obtain ⟨-, -, -, hwriter, -⟩ := registersChangeOnlyByTheirWriters i s t h
  obtain ⟨p, rfl⟩ | ⟨p, rfl, hp⟩ | rfl := hwriter hne
  · simp [mayWriteIncrement] at hi
  · simp [mayWriteIncrement, hp] at hi
  · simp [mayWriteIncrement] at hi

theorem exec_start_run {p : Payload} {s t : State} (h : exec (.start p) s = .next t) : t.block.run = .running := by
  obtain ⟨-, -, ⟨-, hb, -⟩ | ⟨-, hb, -⟩⟩ := exec_start_next h <;> rw [hb, Block.setRun_run]

/-- A run of two operations comes through the next state of the first. -/
theorem execAll_pair_next {i j : Instr} {s t : State} (h : execAll [i, j] s = .next t) :
    ∃ u, exec i s = .next u ∧ exec j u = .next t := by
  obtain ⟨u, hu, hrest⟩ := execAll_cons_next h
  obtain ⟨v, hv, hnil⟩ := execAll_cons_next hrest
  injection hnil with hnil
  exact ⟨u, hu, hnil ▸ hv⟩

/-- Settles O33: the phase by the rule for one operation, twice for STOP then START; RUN by START's own effect. -/
theorem noCommandMovesThePhase : Obligations.NoCommandMovesThePhase := by
  constructor
  · intro i s t htick hrst h
    rw [exec_phaseAcc_eq hrst h, if_neg]
    rintro ⟨rfl, hrun⟩
    simp [hrun] at htick
  · intro p s t h
    obtain ⟨u, hu, ht⟩ := execAll_pair_next h
    refine ⟨?_, exec_start_run ht⟩
    rw [exec_phaseAcc_eq (by simp) ht, exec_phaseAcc_eq (by simp) hu]
    simp

/-! ## The tick law (rule R75) -/

/-- The TICKs performed with RUN = 1 are counted one operation at a time. -/
theorem effectiveTicks_cons {i : Instr} {s t : State} (h : exec i s = .next t) (is : List Instr) :
    effectiveTicks s.block.run (i :: is) =
      (if i = .tick ∧ s.block.run = .running then 1 else 0) + effectiveTicks t.block.run is := by
  cases i with
  | setFreq p => simp [effectiveTicks, (exec_setFreq_next h).1]
  | setWave p => simp [effectiveTicks, (exec_setWave_next h).1]
  | start p => simp [effectiveTicks, exec_start_run h]
  | stop => simp [effectiveTicks, exec_stop_next h]
  | illegal w => simp [effectiveTicks, exec_illegal_next h]
  | rd a => simp [effectiveTicks, exec_rd_next h]
  | tick =>
    obtain ⟨hrun, rfl⟩ | ⟨hrun, rfl⟩ := exec_tick_next h
    · simp [effectiveTicks, hrun]
    · simp [effectiveTicks, samplePeriod_block_eq, hrun, Nat.add_comm]
  | rst => simp [effectiveTicks, exec_rst_next h, Block.reset]

/-- The n-tick law, by induction on the operations. -/
theorem execAll_phase {is : List Instr} {s : State} (his : ∀ i ∈ is, mayWriteIncrement i = false) :
    ∃ t, execAll is s = .next t ∧ t.block.phaseInc = s.block.phaseInc ∧
      t.block.phaseAcc.toNat =
        (s.block.phaseAcc.toNat + effectiveTicks s.block.run is * s.block.phaseInc.toNat) % 65536 := by
  induction is generalizing s with
  | nil => exact ⟨s, rfl, rfl, by simp [effectiveTicks, Nat.mod_eq_of_lt s.block.phaseAcc.isLt]⟩
  | cons i is ih =>
    obtain ⟨hi, htail⟩ := List.forall_mem_cons.mp his
    obtain ⟨u, hu⟩ := exec_eq_next i s
    obtain ⟨t, ht, hinc, hacc⟩ := ih (s := u) htail
    have hrst : i ≠ .rst := by
      rintro rfl
      simp [mayWriteIncrement] at hi
    refine ⟨t, (execAll_cons_of_next hu is).trans ht, hinc.trans (exec_phaseInc_eq hi hu), ?_⟩
    rw [hacc, exec_phaseInc_eq hi hu, exec_phaseAcc_eq hrst hu, effectiveTicks_cons hu]
    split
    · rw [BitVec.toNat_add, Nat.mod_add_mod, Nat.add_mul, Nat.one_mul, Nat.add_assoc]
    · rw [Nat.zero_add]

/-- Settles O27: the law for a list, and the index of a sample period is taken from the accumulator it leaves. -/
theorem phaseAfterTicksFollowsTheTickLaw : Obligations.PhaseAfterTicksFollowsTheTickLaw := by
  refine ⟨fun is s his => execAll_phase his, fun s t hrun h => ⟨?_, Nat.le_of_lt_succ s.block.nextPhase.1.isLt⟩⟩
  rw [exec_phaseAcc_eq (by simp) h, if_pos ⟨rfl, hrun⟩, Block.nextPhase_index, phaseIndex_toNat, Block.nextPhase_block,
    Block.setPhaseAcc_phaseAcc]

/-! ## Ticks in a row -/

theorem exec_tick_of_running {s : State} (h : s.block.run = .running) : exec .tick s = .next (samplePeriod s) := by
  simp only [exec, execTick, h]

@[simp] theorem samplePeriod_run (s : State) : (samplePeriod s).block.run = s.block.run := by
  simp [samplePeriod_block_eq]

@[simp] theorem samplePeriod_waveSel (s : State) : (samplePeriod s).block.waveSel = s.block.waveSel := by
  simp [samplePeriod_block_eq]

@[simp] theorem samplePeriod_phaseInc (s : State) : (samplePeriod s).block.phaseInc = s.block.phaseInc := by
  simp [samplePeriod_block_eq]

theorem samplePeriod_phaseAcc (s : State) :
    (samplePeriod s).block.phaseAcc.toNat = (s.block.phaseAcc.toNat + s.block.phaseInc.toNat) % 65536 :=
  samplePeriod_phaseAcc_toNat (Nat.mod_eq_of_lt s.block.phaseInc.isLt).symm

/-- The index of an accumulator, from its number (rule R73). -/
theorem phaseIndex_eq (acc : PhaseBits) : phaseIndex acc = BitVec.ofNat 8 (acc.toNat / 256) := by
  rw [← phaseIndex_toNat, BitVec.ofNat_toNat, BitVec.setWidth_eq]

/-- Settles O28, by induction on the ticks: the first sends the entry at the first index, and the others count on from the
phase it leaves. -/
theorem ticksSendTheSampleSequence : Obligations.TicksSendTheSampleSequence := by
  intro n
  induction n with
  | zero => exact fun s _ => ⟨s, rfl, (List.append_nil _).symm⟩
  | succ n ih =>
    intro s hrun
    obtain ⟨t, ht, hsamples⟩ := ih (samplePeriod s) (by simp [hrun])
    refine ⟨t, (execAll_cons_of_next (exec_tick_of_running hrun) _).trans ht, ?_⟩
    have hshift (j : Nat) :
        s.block.phaseAcc.toNat + s.block.phaseInc.toNat + (j + 1) * s.block.phaseInc.toNat =
          s.block.phaseAcc.toNat + (j + 1 + 1) * s.block.phaseInc.toNat := by
      rw [Nat.add_one_mul (j + 1), Nat.add_comm (_ * _), Nat.add_assoc]
    rw [hsamples, samplePeriod_samples, List.range_succ_eq_map, phaseIndex_eq, samplePeriod_waveSel,
      samplePeriod_phaseInc, samplePeriod_phaseAcc, List.append_assoc]
    simp [Function.comp_def, hshift]

/-- In a row of TICKs with RUN = 1 PHASE_ACC wraps once for every whole cycle of the unreduced phase. -/
theorem tickWraps_eq (n : Nat) {s : State} (hrun : s.block.run = .running) :
    tickWraps n s = (s.block.phaseAcc.toNat + n * s.block.phaseInc.toNat) / 65536 := by
  induction n generalizing s with
  | zero =>
    rw [Nat.zero_mul, Nat.add_zero, Nat.div_eq_of_lt s.block.phaseAcc.isLt]
    rfl
  | succ n ih =>
    rw [tickWraps_succ_of_next (exec_tick_of_running hrun), ih (by simp [hrun]), samplePeriod_phaseInc,
      samplePeriod_phaseAcc, Nat.add_one_mul]
    have hacc := s.block.phaseAcc.isLt
    have hinc := s.block.phaseInc.isLt
    split <;> omega

theorem effectiveTicks_replicate_tick (n : Nat) : effectiveTicks .running (List.replicate n .tick) = n := by
  induction n with
  | zero => rfl
  | succ n ih => rw [List.replicate_succ, effectiveTicks, ih]

/-- A whole number of cycles of the accumulator brings it back, and it wraps PHASE_INC times in each (rule R76). -/
theorem ticks_wrap_and_return (m : Nat) {s : State} (hrun : s.block.run = .running) :
    tickWraps (65536 * m) s = m * s.block.phaseInc.toNat ∧
    ∃ t, execAll (List.replicate (65536 * m) .tick) s = .next t ∧ t.block.phaseAcc = s.block.phaseAcc := by
  have hlt := s.block.phaseAcc.isLt
  constructor
  · rw [tickWraps_eq _ hrun, Nat.mul_assoc, Nat.add_mul_div_left _ _ (by decide), Nat.div_eq_of_lt hlt, Nat.zero_add]
  · obtain ⟨t, ht, -, hacc⟩ := execAll_phase (is := List.replicate (65536 * m) .tick) (s := s)
      fun i hi => List.eq_of_mem_replicate hi ▸ rfl
    refine ⟨t, ht, BitVec.eq_of_toNat_eq ?_⟩
    rw [hacc, hrun, effectiveTicks_replicate_tick, Nat.mul_assoc, Nat.add_mul_mod_self_left, Nat.mod_eq_of_lt hlt]

/-! ## The synthesised frequency (rule R76) -/

/-- With FREQ below the sample rate, `PHASE_INC * SAMPLE_RATE / 65536` Hz is at most the requested frequency and short of it
by less than one step of the increment. -/
def Block.SynthesisWithinOneStepBelow (b : Block) : Prop :=
  b.freq.toNat < 1000 * b.sampleRate.toNat →
    1000 * (b.phaseInc.toNat * b.sampleRate.toNat) ≤ b.freq.toNat * 65536 ∧
    b.freq.toNat * 65536 < 1000 * ((b.phaseInc.toNat + 1) * b.sampleRate.toNat)

/-- Below the sample rate the quotient fits the increment unreduced, and a quotient rounded down is short by less than 1. -/
theorem Block.updateIncrement_synthesis {b : Block} (h : b.sampleRate ≠ 0#20) :
    b.updateIncrement.SynthesisWithinOneStepBelow := by
  intro hbelow
  rw [Block.updateIncrement_freq, Block.updateIncrement_sampleRate] at hbelow ⊢
  have hpos : 0 < 1000 * b.sampleRate.toNat := Nat.zero_lt_of_lt hbelow
  have hfits : b.freq.toNat * 65536 / (1000 * b.sampleRate.toNat) < 65536 := Nat.div_lt_of_lt_mul (by omega)
  rw [Block.updateIncrement_phaseInc_toNat h, Nat.mod_eq_of_lt hfits, Nat.mul_left_comm, Nat.mul_left_comm 1000]
  exact ⟨Nat.div_mul_le_self _ _, Nat.lt_mul_of_div_lt (Nat.lt_succ_self _) hpos⟩

theorem setFreq_synthesis (p : Payload) {s : State} (hrate : s.block.sampleRate ≠ 0#20) :
    ∃ t, exec (.setFreq p) s = .next t ∧ t.block.freq.toNat = max 100 (min p.toNat 20000000) ∧
      t.block.sampleRate = s.block.sampleRate ∧ t.block.SynthesisWithinOneStepBelow := by
  obtain ⟨t, ht⟩ := exec_eq_next (.setFreq p) s
  obtain ⟨hblock, -⟩ := exec_setFreq_next ht
  refine ⟨t, ht, ?_, ?_, ?_⟩
  · simp [hblock, clampFreq_toNat_eq]
  · simp [hblock]
  · exact hblock ▸ Block.updateIncrement_synthesis (b := s.block.setFreq (clampFreq p)) hrate

theorem start_synthesis {p : Payload} (hp : p ≠ 0#28) (s : State) :
    ∃ t, exec (.start p) s = .next t ∧ t.block.freq = s.block.freq ∧
      t.block.sampleRate.toNat = min p.toNat 1000000 ∧ t.block.SynthesisWithinOneStepBelow := by
  obtain ⟨t, ht⟩ := exec_eq_next (.start p) s
  obtain ⟨-, -, ⟨-, hblock, -⟩ | ⟨hnone, -⟩⟩ := exec_start_next ht
  · refine ⟨t, ht, ?_, ?_, ?_⟩
    · simp [hblock]
    · simp [hblock, clampRate_toNat_eq hp]
    · rw [hblock]
      exact Block.updateIncrement_synthesis (b := s.block.setSampleRate (clampRate p)) (clampRate_ne_zero p)
  · exact absurd (by simpa [suppliesRate] using hnone) hp

/-- Settles O32: the wraps of a row of TICKs, and the quotient that SET_FREQ and START compute. -/
theorem synthesisedFrequencyIsWithinOneStepBelow : Obligations.SynthesisedFrequencyIsWithinOneStepBelow :=
  ⟨fun m _ => ticks_wrap_and_return m, fun p _ => setFreq_synthesis p, fun _ s hp => start_synthesis hp s⟩

end Sys2Proof.Machine
end

section
/-! PROOFS. The contents of the four waveform tables: the obligations of 41_waveform_rom.md. -/

namespace Sys2Proof.Machine

/-! ## The rounded sine (rule R80) -/

/-- The walk's height is the sine of its step, within ten billionths a step. -/
theorem abs_sin_sub_sineWalk_le {n : Nat} (hn : n ≤ 255) :
    |Real.sin (n * (Real.pi / 128)) - ((Laws.sineWalk n).2 : ℝ) / 1000000000| ≤ 10 * n / 1000000000 := by
  have hangle : (n : ℂ) * (Real.pi / 128 : ℝ) * Complex.I = ((n * (Real.pi / 128) : ℝ) : ℂ) * Complex.I := by
    push_cast
    rfl
  have him := (Complex.abs_im_le_norm _).trans (Laws.norm_exp_sub_walk_le n hn)
  rwa [Complex.sub_im, hangle, Complex.exp_ofReal_mul_I_im] at him

/-- Every sine entry rounds the walk's height, in billionths. What is left before a tie is more than the walk's error, at
most 2550 in 255 steps, times the amplitude 127. -/
theorem sineTable_rounds_sineWalk :
    ∀ n < 256,
      |128 * 1000000000 + 127 * (Laws.sineWalk n).2 - 1000000000 * ((sineTable.getD n 0#8).toNat : Int)| <
        500000000 - 127 * 2550 := by
  decide +kernel

theorem romRead_sine (idx : Byte) : romRead 0#2 idx = sineTable.getD idx.toNat 0#8 :=
  romRead_eq_table 0#2 idx

/-- Settles O51: the entry rounds the walk's height, and the sine is too near to that height for a tie between them. -/
theorem sineTableIsTheRoundedSine : Obligations.SineTableIsTheRoundedSine := by
  intro idx
  have hwalk := abs_le.mp (abs_sin_sub_sineWalk_le (n := idx.toNat) (by omega))
  have hentry : |(128 * 1000000000 + 127 * (Laws.sineWalk idx.toNat).2
      - 1000000000 * (sineTable.getD idx.toNat 0#8).toNat : ℝ)| < 500000000 - 127 * 2550 :=
    mod_cast sineTable_rounds_sineWalk idx.toNat idx.isLt
  have hidx : (idx.toNat : ℝ) ≤ 255 := mod_cast (by omega : idx.toNat ≤ 255)
  rw [romRead_sine, show 2 * Real.pi * (idx.toNat : ℝ) / 256 = idx.toNat * (Real.pi / 128) by ring]
  rw [abs_lt] at hentry ⊢
  constructor <;> linarith

/-! ## The sine table's properties (rules R80 and R86) -/

/-- Half a cycle on, the sine is negated. -/
theorem sin_half_cycle_later (idx : Byte) :
    Real.sin (2 * Real.pi * ((idx + 128#8).toNat : ℝ) / 256) = -Real.sin (2 * Real.pi * (idx.toNat : ℝ) / 256) := by
  obtain hlow | hhigh := Nat.lt_or_ge idx.toNat 128
  · rw [show (idx + 128#8).toNat = idx.toNat + 128 by bv_omega, ← Real.sin_add_pi]
    push_cast
    ring_nf
  · rw [show (idx + 128#8).toNat = idx.toNat - 128 by bv_omega, ← Real.sin_sub_pi, Nat.cast_sub hhigh]
    push_cast
    ring_nf

/-- Two entries half a cycle apart round two numbers that add to 256, so their sum is less than 1 away from it. -/
theorem sine_add_half_cycle_later (idx : Byte) : (romRead 0#2 idx).toNat + (romRead 0#2 (idx + 128#8)).toNat = 256 := by
  have hhere := abs_lt.mp (sineTableIsTheRoundedSine idx)
  have hlater := abs_lt.mp (sineTableIsTheRoundedSine (idx + 128#8))
  rw [sin_half_cycle_later] at hlater
  have hlt : ((romRead 0#2 idx).toNat + (romRead 0#2 (idx + 128#8)).toNat : ℝ) < (257 : Nat) := by push_cast; linarith
  have hgt : ((255 : Nat) : ℝ) < (romRead 0#2 idx).toNat + (romRead 0#2 (idx + 128#8)).toNat := by push_cast; linarith
  norm_cast at hlt hgt
  omega

/-- The least number an entry can round is 1. -/
theorem one_le_sine (idx : Byte) : 1 ≤ (romRead 0#2 idx).toNat := by
  have hround := abs_lt.mp (sineTableIsTheRoundedSine idx)
  have hsin := Real.neg_one_le_sin (2 * Real.pi * (idx.toNat : ℝ) / 256)
  have hpos : (0 : ℝ) < (romRead 0#2 idx).toNat := by linarith
  exact_mod_cast hpos

theorem sineTable_eq_one_iff : ∀ n < 256, (sineTable.getD n 0#8).toNat = 1 ↔ 189 ≤ n ∧ n ≤ 195 := by
  decide +kernel

theorem sine_eq_one_iff (idx : Byte) : (romRead 0#2 idx).toNat = 1 ↔ 189 ≤ idx.toNat ∧ idx.toNat ≤ 195 :=
  romRead_sine idx ▸ sineTable_eq_one_iff idx.toNat idx.isLt

/-- An entry is the greatest where the one half a cycle on is the least. -/
theorem sine_eq_255_iff (idx : Byte) : (romRead 0#2 idx).toNat = 255 ↔ 61 ≤ idx.toNat ∧ idx.toNat ≤ 67 := by
  have hsum := sine_add_half_cycle_later idx
  have hleast := sine_eq_one_iff (idx + 128#8)
  rw [BitVec.toNat_add, BitVec.toNat_ofNat] at hleast
  omega

theorem sineTable_sum : ((table 0#2).map BitVec.toNat).sum = 32768 := by
  decide +kernel

/-- Settles O50: the symmetry and the lower bound are the rounded sine's, the places of 1 and the sum the table's. -/
theorem sineTableProperties : Obligations.SineTableProperties :=
  ⟨sine_add_half_cycle_later, one_le_sine, sine_eq_one_iff, sine_eq_255_iff, sineTable_sum⟩

/-! ## The square, sawtooth and triangle tables (rules R81 to R83) -/

/-- The bank of a code begins at 256 times the code (rule R31). -/
theorem romByte_bank (sel : WaveCode) (idx : Byte) :
    romByte (BitVec.ofNat 10 (sel.toNat * 256 + idx.toNat)) = romRead sel idx := by
  rw [← romAddr_toNat, BitVec.ofNat_toNat, BitVec.setWidth_eq, romRead]

theorem romRead_square (idx : Byte) : (romRead 1#2 idx).toNat = if idx.toNat < 128 then 0 else 255 := by
  have hentry : romRead 1#2 idx = squareTable.getD idx.toNat 0#8 := romRead_eq_table 1#2 idx
  rw [hentry, squareTable]
  split
  · rw [List.getD_append _ _ _ _ (by simpa), List.getD_replicate _ ‹_›]
    rfl
  · rw [List.getD_append_right _ _ _ _ (by simp; omega), List.getD_replicate _ (by simp; omega)]
    rfl

/-- An entry of a table given by a formula on its 256 indices. -/
theorem getD_map_range (f : Nat → Byte) (idx : Byte) : ((List.range 256).map f).getD idx.toNat 0#8 = f idx.toNat := by
  rw [List.getD_eq_getElem _ _ (by simpa using idx.isLt), List.getElem_map, List.getElem_range]

theorem romRead_sawtooth (idx : Byte) : (romRead 2#2 idx).toNat = idx.toNat := by
  have hentry : romRead 2#2 idx = sawtoothTable.getD idx.toNat 0#8 := romRead_eq_table 2#2 idx
  rw [hentry, sawtoothTable, getD_map_range, BitVec.ofNat_toNat, BitVec.setWidth_eq]

theorem romRead_triangle (idx : Byte) :
    (romRead 3#2 idx).toNat = if idx.toNat < 128 then idx.toNat else 383 - idx.toNat := by
  have hentry : romRead 3#2 idx = triangleTable.getD idx.toNat 0#8 := romRead_eq_table 3#2 idx
  rw [hentry, triangleTable, getD_map_range, BitVec.toNat_ofNat, Nat.mod_eq_of_lt]
  split <;> omega

/-- Settles O49: each table's entries, and each code's bank at its ROM addresses. -/
theorem squareSawtoothTriangleTables : Obligations.SquareSawtoothTriangleTables := fun idx =>
  ⟨romRead_square idx, romRead_sawtooth idx, romRead_triangle idx, romByte_bank 1#2 idx, romByte_bank 2#2 idx,
    romByte_bank 3#2 idx⟩

end Sys2Proof.Machine
end

section
/-! PROOFS. The whole next state of SET_WAVE, START, STOP and TICK, and the run state: the obligations of 42_engine.md. -/

namespace Sys2Proof.Machine

/-! ## START (rules R70, R71 and R89) -/

theorem suppliesRate_iff {p : Payload} : suppliesRate p = true ↔ p ≠ 0#28 := by
  rw [suppliesRate, bne_iff_ne]

theorem clampRate_eq {p : Payload} (hp : p ≠ 0#28) : clampRate p = BitVec.ofNat 20 (min p.toNat 1000000) := by
  rw [← clampRate_toNat_eq hp, BitVec.ofNat_toNat, BitVec.setWidth_eq]

/-- A rate that is supplied is not 0, so its clamp can only lower it. -/
theorem rateIsClamped_iff {p : Payload} (hp : p ≠ 0#28) : rateIsClamped p = true ↔ 1000000 < p.toNat := by
  rw [rateIsClamped, bne_iff_ne, ne_eq, ← clampRate_toNat, clampRate_toNat_eq hp]
  omega

/-- Settles O17: the parts of the next state of a START that was given a rate, with the clamp and the quotient written out. -/
theorem startWithRateWritesRateIncrementAndRun : Obligations.StartWithRateWritesRateIncrementAndRun := by
  intro p s hp
  obtain ⟨t, ht⟩ := exec_eq_next (.start p) s
  rw [ht]
  obtain ⟨hsink, henv, ⟨-, hblock, htrace⟩ | ⟨hnone, -⟩⟩ := exec_start_next ht
  · refine congrArg _ (State.eq_of_parts ?_ hsink henv ?_)
    · rw [hblock, Block.updateIncrement_eq (b := s.block.setSampleRate (clampRate p)) (clampRate_ne_zero p),
        Block.setSampleRate_freq, Block.setSampleRate_sampleRate, clampRate_toNat_eq hp, clampRate_eq hp]
      rfl
    · simp only [htrace, rateIsClamped_iff hp]
  · exact absurd (suppliesRate_iff.mpr hp) (by simp [hnone])

/-- Settles O16: payload 0 supplies no rate, and START then writes RUN alone. -/
theorem startWithoutRateSetsRunAlone : Obligations.StartWithoutRateSetsRunAlone := fun _ => rfl

/-! ## STOP (rule R90) -/

/-- Settles O18: RUN is the one register that STOP writes. -/
theorem stopClearsRunAlone : Obligations.StopClearsRunAlone := fun _ => rfl

/-! ## SET_WAVE (rules R85 and R91) -/

theorem isWaveCode_iff {p : Payload} : isWaveCode p = true ↔ p.toNat < 4 := by
  rw [isWaveCode, decide_eq_true_eq, Nat.lt_succ_iff]

/-- Settles O19: the parts of the next state of SET_WAVE, with the fallback to sine written out. -/
theorem setWaveSelectsTheCodeOrSine : Obligations.SetWaveSelectsTheCodeOrSine := by
  intro p s
  obtain ⟨t, ht⟩ := exec_eq_next (.setWave p) s
  obtain ⟨hblock, hsink, henv, htrace⟩ := exec_setWave_next ht
  rw [ht]
  refine congrArg _ (State.eq_of_parts ?_ hsink henv ?_)
  · rw [hblock, resolveWave_eq]
    rfl
  · simp only [htrace, isWaveCode_iff]

/-! ## TICK (rule R93) -/

/-- Settles O24: RUN = 0 makes a TICK answer the state it finds. -/
theorem tickWhileStoppedDoesNothing : Obligations.TickWhileStoppedDoesNothing := fun _ => exec_tick_of_stopped

/-- A draw takes the first scripted answer, or without one the free answer at the draw counter (rules R97 and R101). -/
theorem Env.drawSinkAnswer_takes_one (e : Env) :
    (e.sinkAnswers = e.drawSinkAnswer.1 :: e.drawSinkAnswer.2.sinkAnswers ∧
      e.drawSinkAnswer.2 = { e with sinkAnswers := e.drawSinkAnswer.2.sinkAnswers }) ∨
    (e.sinkAnswers = [] ∧ e.drawSinkAnswer.1 = Config.freeSinkAnswer e.draws ∧
      e.drawSinkAnswer.2 = { e with draws := e.draws + 1 }) := by
  obtain ⟨a, rest, hscript, hdraw⟩ | ⟨hempty, hdraw⟩ := e.drawSinkAnswer_cases
  · exact .inl ⟨by rw [hscript, hdraw], by rw [hdraw]⟩
  · exact .inr ⟨hempty, by rw [hdraw], by rw [hdraw]⟩

theorem Sink.clampValue_eq {k : Sink} {v c : Byte} (h : c.toNat = clamp v.toNat k.lo.toNat k.hi.toNat) :
    k.clampValue v = c := by
  rw [Sink.clampValue, ← h, BitVec.ofNat_toNat, BitVec.setWidth_eq]

theorem Block.nextPhase_eq {b : Block} {acc : PhaseBits}
    (h : acc.toNat = (b.phaseAcc.toNat + b.phaseInc.toNat) % 65536) :
    b.nextPhase = (BitVec.ofNat 8 (acc.toNat / 256), b.setPhaseAcc acc) := by
  have hacc : b.phaseAcc + b.phaseInc = acc := BitVec.eq_of_toNat_eq h.symm
  rw [Block.nextPhase, hacc, phaseIndex_eq]

/-- Settles O25: the parts of the state after a sample period, each by the three answers of the sink. -/
theorem runningTickTakesOneSample : Obligations.RunningTickTakesOneSample := by
  intro s hrun
  refine ⟨s.env.drawSinkAnswer.1, s.env.drawSinkAnswer.2, s.env.drawSinkAnswer_takes_one, fun acc v c hacc hv hc => ?_⟩
  have hphase := Block.nextPhase_eq hacc
  rw [exec_tick_of_running hrun]
  refine congrArg _ (State.eq_of_parts ?block ?sink ?env ?trace)
  case block =>
    rw [samplePeriod_block, hphase]
    cases s.env.drawSinkAnswer.1 <;> rfl
  case sink =>
    rw [samplePeriod_sink, hphase, ← hv]
    cases s.env.drawSinkAnswer.1 <;> simp only [Sink.write, Sink.clampValue_eq hc]
  case env =>
    rw [samplePeriod_env]
    cases s.env.drawSinkAnswer.1 <;> rfl
  case trace =>
    rw [samplePeriod_trace, hphase, ← hv]
    cases s.env.drawSinkAnswer.1 <;> rfl

/-! ## The run state (rules R22, R87, R89 and R90) -/

theorem Block.trigArm_iff {b : Block} : b.trigArm = true ↔ b.run = .running := decide_eq_true_iff

/-- Settles O35, by cases of the operation: RUN is what its effect on the block leaves. -/
theorem runFollowsTheStateMachine : Obligations.RunFollowsTheStateMachine := by
  intro i s t h
  refine ⟨?_, Block.trigArm_iff, rfl⟩
  cases i with
  | setFreq p => simp [(exec_setFreq_next h).1]
  | setWave p => simp [(exec_setWave_next h).1]
  | start p => exact exec_start_run h
  | stop => simp [exec_stop_next h]
  | illegal w => simp [exec_illegal_next h]
  | rd a => simp [exec_rd_next h]
  | tick => obtain ⟨-, rfl⟩ | ⟨-, rfl⟩ := exec_tick_next h <;> simp
  | rst => simp [exec_rst_next h, Block.reset]

/-- STARTs leave RUN = 1 once it is 1. -/
theorem execAll_starts_of_running (ps : List Payload) {s : State} (hrun : s.block.run = .running) :
    ∃ t, execAll (ps.map .start) s = .next t ∧ t.block.run = .running := by
  induction ps generalizing s with
  | nil => exact ⟨s, rfl, hrun⟩
  | cons p ps ih =>
    obtain ⟨u, hu⟩ := exec_eq_next (.start p) s
    obtain ⟨t, ht, hrun'⟩ := ih (exec_start_run hu)
    exact ⟨t, (execAll_cons_of_next hu _).trans ht, hrun'⟩

/-- Settles O40: the first START arms, the others keep it so, and after a STOP no TICK finds RUN = 1. -/
theorem oneStopDisarmsAfterManyStarts : Obligations.OneStopDisarmsAfterManyStarts := by
  intro p ps s
  obtain ⟨u, hu⟩ := exec_eq_next (.start p) s
  obtain ⟨t, ht, hrun⟩ := execAll_starts_of_running ps (exec_start_run hu)
  refine ⟨t, _, (execAll_cons_of_next hu _).trans ht, Block.trigArm_iff.mpr hrun, stopClearsRunAlone t, rfl, ?_⟩
  intro v hv
  injection hv.symm.trans (tickWhileStoppedDoesNothing _ rfl)

end Sys2Proof.Machine
end

section
/-! PROOFS. The sink's range, its last value, what it forwards, and what of it reaches the block: the obligations of
43_output_sink.md. -/

namespace Sys2Proof.Machine

/-! ## What the sink forwards (rule R97) -/

/-- With `lo` at most `hi` the clamp is at most `hi`, so it fits a byte and is not reduced. -/
theorem Sink.clampValue_toNat {k : Sink} (h : k.lo.toNat ≤ k.hi.toNat) (v : Byte) :
    (k.clampValue v).toNat = clamp v.toNat k.lo.toNat k.hi.toNat := by
  have hle := (clamp_mem v.toNat h).2
  rw [Sink.clampValue, BitVec.toNat_ofNat, Nat.mod_eq_of_lt (hle.trans_lt k.hi.isLt)]

theorem Sink.clampValue_of_mem {k : Sink} {v : Byte} (hlo : k.lo.toNat ≤ v.toNat) (hhi : v.toNat ≤ k.hi.toNat) :
    k.clampValue v = v :=
  Sink.clampValue_eq (clamp_of_mem hlo hhi).symm

/-- Settles O54: the value forwarded is the clamped sample. -/
theorem sinkForwardsInsideItsRange : Obligations.SinkForwardsInsideItsRange := by
  intro k v h
  obtain ⟨hlo, hhi⟩ := clamp_mem v.toNat h
  rw [← Sink.clampValue_toNat h v] at hlo hhi
  exact ⟨k.clampValue v, rfl, hlo, hhi, fun hmem => Sink.clampValue_of_mem hmem.1 hmem.2⟩

/-! ## The host's operations on the sink (rules R98 and R99) -/

theorem step_of_accept_sink {s s' : State} {op : SinkOp} (h : s.accept = some (.sink op, s')) :
    step s = .next (performSinkOp op s') := by
  simp only [step, h]

theorem clampAmplitude_eq (a : Nat) : clampAmplitude a = min a 1000 := by
  rw [clampAmplitude, clamp_eq_max_min (by decide), Nat.zero_max]

/-- An amplitude is clamped only from above. -/
theorem clampAmplitude_bne_iff (a : Nat) : (clampAmplitude a != a) = true ↔ 1000 < a := by
  rw [bne_iff_ne, clampAmplitude_eq]
  omega

theorem amplitudeHi_eq (a : Nat) : amplitudeHi a = BitVec.ofNat 8 ((255 * min a 1000 + 500) / 1000) := by
  rw [amplitudeHi, clampAmplitude_eq]

/-- Settles O52: the parts of the next state of SetAmplitude, with the clamp written out. -/
theorem setAmplitudeSetsTheRange : Obligations.SetAmplitudeSetsTheRange := by
  intro a s s' hacc
  rw [step_of_accept_sink hacc]
  refine congrArg _ (State.eq_of_parts ?block ?sink ?env ?trace)
  case block => exact performSinkOp_block (.setAmplitude a) s'
  case sink => simp [performSinkOp, performSetAmplitude, Sink.setAmplitude, amplitudeHi_eq]
  case env => simp [performSinkOp, performSetAmplitude]
  case trace =>
    simp only [performSinkOp, performSetAmplitude, State.setSink_trace, State.meetIf_trace, clampAmplitude_bne_iff]

/-- Settles O53: accepting the request leaves the sink's value, and performing it records that value. -/
theorem getValueReturnsTheLastValue : Obligations.GetValueReturnsTheLastValue := by
  intro s s' hacc
  obtain ⟨e, rfl⟩ := State.accept_some hacc
  exact step_of_accept_sink hacc

/-! ## The block against the sink (rules R101, R129 and R132) -/

/-- Every operation but TICK writes registers that it computes from the registers alone. -/
theorem exec_block_eq_of_ne_tick {i : Instr} {s s' t t' : State} (hi : i ≠ .tick) (hs : s.block = s'.block)
    (h : exec i s = .next t) (h' : exec i s' = .next t') : t.block = t'.block := by
  cases i with
  | setFreq p => rw [(exec_setFreq_next h).1, (exec_setFreq_next h').1, hs]
  | setWave p => rw [(exec_setWave_next h).1, (exec_setWave_next h').1, hs]
  | start p =>
    obtain ⟨-, -, ⟨hp, hb, -⟩ | ⟨hp, hb, -⟩⟩ := exec_start_next h <;>
      obtain ⟨-, -, ⟨hp', hb', -⟩ | ⟨hp', hb', -⟩⟩ := exec_start_next h'
    · rw [hb, hb', hs]
    · simp [hp] at hp'
    · simp [hp] at hp'
    · rw [hb, hb', hs]
  | stop => simp [exec_stop_next h, exec_stop_next h', hs]
  | illegal w => simp [exec_illegal_next h, exec_illegal_next h', hs]
  | rd a => simp [exec_rd_next h, exec_rd_next h', hs]
  | tick => exact absurd rfl hi
  | rst => simp [exec_rst_next h, exec_rst_next h']

theorem exec_samples_of_ne_tick {i : Instr} {s t : State} (hi : i ≠ .tick) (h : exec i s = .next t) :
    t.samples = s.samples := by
  rw [State.samples, exec_sinkWrites_of_ne_tick hi h, State.samples]

/-- The sink's answer to a sample reaches SINK_FAULT alone. -/
theorem samplePeriod_block_but_sinkFault (s : State) :
    { (samplePeriod s).block with sinkFault := false } =
      { s.block with phaseAcc := s.block.phaseAcc + s.block.phaseInc, sinkFault := false } := by
  rw [samplePeriod_block_eq]
  rfl

/-- The accumulator after a sample period, and with it the index of its sample, is the registers' alone. -/
theorem samplePeriod_phaseAcc_eq (s : State) :
    (samplePeriod s).block.phaseAcc = s.block.phaseAcc + s.block.phaseInc := by
  simp [samplePeriod_block_eq]

/-- Settles O41: only a running TICK hears from the sink, and the sink answers after the sample is chosen and sent. -/
theorem sinkReachesNothingButSinkFault : Obligations.SinkReachesNothingButSinkFault := by
  intro i s s' t t' hs h h'
  by_cases hi : i = .tick
  · subst hi
    cases hrun : s.block.run with
    | stopped =>
      obtain rfl : s = t := by injection (exec_tick_of_stopped hrun).symm.trans h
      obtain rfl : s' = t' := by injection (exec_tick_of_stopped (hs ▸ hrun)).symm.trans h'
      exact ⟨by rw [hs], [], by simp⟩
    | running =>
      obtain rfl : samplePeriod s = t := by injection (exec_tick_of_running hrun).symm.trans h
      obtain rfl : samplePeriod s' = t' := by injection (exec_tick_of_running (hs ▸ hrun)).symm.trans h'
      refine ⟨?_, [romRead s.block.waveSel (phaseIndex (s.block.phaseAcc + s.block.phaseInc))], ?_, ?_⟩
      · rw [samplePeriod_block_but_sinkFault, samplePeriod_block_but_sinkFault, hs]
      · rw [samplePeriod_samples, samplePeriod_phaseAcc_eq]
      · rw [samplePeriod_samples, samplePeriod_phaseAcc_eq, hs]
  · exact ⟨by rw [exec_block_eq_of_ne_tick hi hs h h'], [], by simp [exec_samples_of_ne_tick hi h],
      by simp [exec_samples_of_ne_tick hi h']⟩

/-! ## The accepted samples (rules R97 and R99) -/

/-- The sink has forwarded one value for each SINKWR answered `ok`, and has no value only if it forwarded none. -/
def State.ForwardedAccepted (s : State) : Prop :=
  s.sink.emitted.length = (s.sinkWrites.filter fun w => decide (w.2 = .ok)).length ∧
  (s.sink.currentValue = none → s.sink.emitted = [])

/-- That is a matter of what the sink forwarded, its value, and the SINKWRs. -/
theorem State.ForwardedAccepted.of_eq {s t : State} (hs : s.ForwardedAccepted)
    (hemitted : t.sink.emitted = s.sink.emitted) (hvalue : t.sink.currentValue = s.sink.currentValue)
    (hwrites : t.sinkWrites = s.sinkWrites) : t.ForwardedAccepted := by
  rw [State.ForwardedAccepted, hemitted, hvalue, hwrites]
  exact hs

theorem exec_sink_of_ne_tick {i : Instr} {s t : State} (hi : i ≠ .tick) (h : exec i s = .next t) : t.sink = s.sink := by
  by_contra hne
  obtain ⟨-, -, -, -, -, -, -, -, hwriter⟩ := registersChangeOnlyByTheirWriters i s t h
  exact hi (hwriter (.inl hne)).1

/-- An accepted sample is forwarded and becomes the value; a failed one is not forwarded. -/
theorem samplePeriod_keeps_forwardedAccepted {s : State} (hs : s.ForwardedAccepted) :
    (samplePeriod s).ForwardedAccepted := by
  obtain ⟨hlength, hvalue⟩ := hs
  rw [State.ForwardedAccepted, samplePeriod_sink, samplePeriod_sinkWrites]
  cases s.env.drawSinkAnswer.1 with
  | ok => simp [Sink.write, respOf, hlength]
  | failKept => simpa [Sink.write, respOf, hlength] using hvalue
  | failStored => simp [Sink.write, respOf, hlength]

theorem exec_keeps_forwardedAccepted {i : Instr} {s t : State} (hs : s.ForwardedAccepted) (h : exec i s = .next t) :
    t.ForwardedAccepted := by
  by_cases hi : i = .tick
  · subst hi
    obtain ⟨-, rfl⟩ | ⟨-, rfl⟩ := exec_tick_next h
    · exact hs
    · exact samplePeriod_keeps_forwardedAccepted hs
  · have hsink := exec_sink_of_ne_tick hi h
    exact hs.of_eq (by rw [hsink]) (by rw [hsink]) (exec_sinkWrites_of_ne_tick hi h)

/-- SetAmplitude moves the range alone, and a GetValue is no SINKWR. -/
theorem performSinkOp_keeps_forwardedAccepted {s : State} (op : SinkOp) (hs : s.ForwardedAccepted) :
    (performSinkOp op s).ForwardedAccepted := by
  cases op with
  | setAmplitude a =>
    refine hs.of_eq ?emitted ?value ?writes
    case emitted => simp [performSinkOp, performSetAmplitude, Sink.setAmplitude]
    case value => simp [performSinkOp, performSetAmplitude, Sink.setAmplitude]
    case writes =>
      rw [State.sinkWrites_eq, State.sinkWrites_eq]
      cases hc : clampAmplitude a != a <;> simp [performSinkOp, performSetAmplitude, hc, Obs.sinkwr?]
  | getValue =>
    refine hs.of_eq rfl rfl ?_
    simp [State.sinkWrites_eq, performSinkOp, performGetValue, Obs.sinkwr?]

theorem forwardedAccepted_kept : Kept State.ForwardedAccepted where
  setEnv _ hs := hs
  exec := exec_keeps_forwardedAccepted
  sinkOp := performSinkOp_keeps_forwardedAccepted

/-- Settles O46: the invariant holds at reset, where nothing was written, and every operation keeps it. -/
theorem reachableSinkForwardedEachAcceptedSample : Obligations.ReachableSinkForwardedEachAcceptedSample := fun _ =>
  forwardedAccepted_kept.reachable ⟨rfl, fun _ => rfl⟩

end Sys2Proof.Machine
end

section
/-! PROOFS. That nothing stops the machine, that faults of a run are never cleared, which error events each operation meets,
and the trigger's period: the obligations of 60_exceptions.md. -/

namespace Sys2Proof.Machine

/-! ## No stop (rules R108 and R131) -/

/-- Waiting, an operation of the block and an operation of the sink all answer a next state. -/
theorem step_eq_next (s : State) : ∃ t, step s = .next t := by
  cases hacc : s.accept with
  | none => exact ⟨s, step_of_accept_none hacc⟩
  | some p =>
    obtain ⟨r, s'⟩ := p
    cases r with
    | block tr =>
      rw [step_of_accept_block hacc]
      exact exec_eq_next (decode tr) s'
    | sink op => exact ⟨_, step_of_accept_sink hacc⟩

/-- Settles O12: the three things a step can do, and the eight operations, all answer a next state. -/
theorem nothingStopsTheMachine : Obligations.NothingStopsTheMachine := ⟨step_eq_next, exec_eq_next⟩

/-! ## Faults of a run (rules R105 and R106) -/

/-- A run without faults has none in any earlier part of its observation. -/
theorem State.faultFree_of_trace_prefix {s t : State} (h : s.trace <+: t.trace) (hfree : t.faultFree = true) :
    s.faultFree = true :=
  List.all_eq_true.mpr fun o ho => List.all_eq_true.mp hfree o (h.subset ho)

theorem trace_prefix_kept (l : List Obs) : Kept fun s => l <+: s.trace where
  setEnv _ hs := hs
  exec hs h := hs.trans (exec_trace_prefix h)
  sinkOp op hs := hs.trans (performSinkOp_trace_prefix op _)

/-- Settles O47: a step keeps everything observed before it. -/
theorem faultsOfARunAreNeverCleared : Obligations.FaultsOfARunAreNeverCleared := fun s _ h =>
  State.faultFree_of_trace_prefix ((trace_prefix_kept s.trace).step (List.prefix_refl s.trace) h)

/-! ## ILLEGAL (rule R105) -/

theorem execAll_trace_prefix {is : List Instr} {s t : State} (h : execAll is s = .next t) : s.trace <+: t.trace := by
  induction is generalizing s with
  | nil =>
    injection h with h
    exact h ▸ List.prefix_refl s.trace
  | cons i is ih =>
    obtain ⟨u, hu, hrest⟩ := execAll_cons_next h
    exact (exec_trace_prefix hu).trans (ih hrest)

/-- A run that performs an ILLEGAL ends with its event in the history. -/
theorem execAll_illegal_mem_events {is : List Instr} {w : Word} {s t : State} (hmem : Instr.illegal w ∈ is)
    (h : execAll is s = .next t) : Event.illegalCommand w ∈ t.events := by
  induction is generalizing s with
  | nil => cases hmem
  | cons i is ih =>
    obtain ⟨u, hu, hrest⟩ := execAll_cons_next h
    obtain rfl | htail := List.mem_cons.mp hmem
    · refine State.events_subset_of_prefix (execAll_trace_prefix hrest) ?_
      simp [State.mem_events, exec_illegal_next hu]
    · exact ih htail hrest

/-- Settles O20: the effect of ILLEGAL, that only RST clears CMD_ERR, and the event that the run keeps. -/
theorem illegalWordSetsCmdErrForGood : Obligations.IllegalWordSetsCmdErrForGood := by
  refine ⟨fun _ _ _ => rfl, fun i s t hi h hflag => (exec_cmdErr_iff hi h).mpr (.inl hflag), ?_⟩
  intro is w s t _ hmem h
  by_contra hfree
  have hfault := State.isFault_eq_false_of_faultFree (Bool.not_eq_false _ ▸ hfree) (execAll_illegal_mem_events hmem h)
  exact absurd hfault (by simp [Event.isFault, Event.code])

/-! ## The events each operation meets (rules R102, R103, R104 and R107) -/

/-- The event of an entry of the observation that is one. -/
def Obs.event? : Obs → Option Event
  | .event e => some e
  | .sinkwr _ _ | .reply _ _ | .sinkRead _ => none

theorem State.events_eq (s : State) : s.events = s.trace.filterMap Obs.event? :=
  List.filterMap_congr fun o _ => by cases o <;> rfl

/-- What is appended to the observation appends its events to the history. -/
theorem State.events_of_trace_append {s t : State} {l : List Obs} (h : t.trace = s.trace ++ l) :
    t.events = s.events ++ l.filterMap Obs.event? := by
  rw [State.events_eq, State.events_eq, h, List.filterMap_append]

/-- An event recorded exactly where `c` fails is met exactly there. -/
theorem State.events_of_trace_unless {s t : State} {e : Event} {b : Bool} {c : Prop} [Decidable c]
    (h : t.trace = s.trace ++ (if b then [.event e] else [])) (hb : b = true ↔ ¬c) :
    t.events = s.events ++ (if c then [] else [e]) := by
  rw [State.events_of_trace_append h]
  by_cases hc : c
  · simp [hb, hc]
  · simp [hb, hc, Obs.event?]

theorem length_unless_le_one (c : Prop) [Decidable c] (e : Event) : (if c then [] else [e]).length ≤ 1 := by
  split <;> simp

theorem exec_setFreq_events {p : Payload} {s t : State} (h : exec (.setFreq p) s = .next t) :
    t.events = s.events ++ (if 100 ≤ p.toNat ∧ p.toNat ≤ 20000000 then [] else [.valueClamped]) := by
  obtain ⟨-, -, -, ht⟩ := exec_setFreq_next h
  refine State.events_of_trace_unless ht ?_
  rw [freqIsClamped_iff]
  omega

theorem exec_setWave_events {p : Payload} {s t : State} (h : exec (.setWave p) s = .next t) :
    t.events = s.events ++ (if p.toNat < 4 then [] else [.unknownWaveform]) := by
  obtain ⟨-, -, -, ht⟩ := exec_setWave_next h
  refine State.events_of_trace_unless (b := !isWaveCode p) (ht.trans ?_) ?_
  · cases isWaveCode p <;> rfl
  · rw [Bool.not_eq_true', ← isWaveCode_iff, Bool.not_eq_true]

/-- A START that was given no rate has nothing to clamp, and its payload 0 is not above the range. -/
theorem exec_start_events {p : Payload} {s t : State} (h : exec (.start p) s = .next t) :
    t.events = s.events ++ (if p.toNat ≤ 1000000 then [] else [.valueClamped]) := by
  obtain ⟨-, -, ⟨hp, -, ht⟩ | ⟨hp, -, ht⟩⟩ := exec_start_next h
  · refine State.events_of_trace_unless ht ?_
    rw [rateIsClamped_iff (suppliesRate_iff.mp hp), Nat.not_le]
  · obtain rfl : p = 0#28 := by simpa [suppliesRate] using hp
    simp [State.events_eq, ht]

/-- A sample period meets DeviceWriteFailure exactly when its SINKWR was answered `fail`. -/
theorem samplePeriod_events (s : State) :
    (samplePeriod s).events =
      s.events ++ (if respOf s.env.drawSinkAnswer.1 = .ok then [] else [.deviceWriteFailure]) := by
  rw [State.events_of_trace_append (samplePeriod_trace s)]
  cases respOf s.env.drawSinkAnswer.1 <;> rfl

/-- Settles O37, by cases of the operation: the events among what it appends to the observation. -/
theorem eachOperationMeetsItsEvents : Obligations.EachOperationMeetsItsEvents := by
  intro i s t h
  cases i with
  | setFreq p => exact ⟨_, exec_setFreq_events h, length_unless_le_one _ _, rfl⟩
  | setWave p => exact ⟨_, exec_setWave_events h, length_unless_le_one _ _, rfl⟩
  | start p => exact ⟨_, exec_start_events h, length_unless_le_one _ _, rfl⟩
  | stop => exact ⟨[], by simp [State.events_eq, exec_stop_next h], by simp, rfl⟩
  | illegal w => exact ⟨[_], by simp [State.events_eq, exec_illegal_next h, Obs.event?], by simp, rfl⟩
  | rd a => exact ⟨[], by simp [State.events_eq, exec_rd_next h, Obs.event?], by simp, rfl⟩
  | tick =>
    obtain ⟨-, rfl⟩ | ⟨-, rfl⟩ := exec_tick_next h
    · exact ⟨[], by simp, by simp, .inr ⟨rfl, .inl rfl⟩⟩
    · refine ⟨_, samplePeriod_events s, length_unless_le_one _ _, ?_⟩
      have hwrite := samplePeriod_sinkWrites s
      cases hresp : respOf s.env.drawSinkAnswer.1 with
      | ok => exact .inr ⟨rfl, .inr ⟨_, hresp ▸ hwrite⟩⟩
      | fail => exact .inl ⟨rfl, _, hresp ▸ hwrite⟩
  | rst => exact ⟨[], by simp [State.events_eq, exec_rst_next h], by simp, rfl⟩

/-! ## The trigger's period (rule R114) -/

/-- Settles O55: a legal rate is not 0, so the division by it is undone. -/
theorem triggerPeriodIsOneOverTheRate : Obligations.TriggerPeriodIsOneOverTheRate := by
  rintro b ⟨-, ⟨hrate, -⟩, -⟩
  exact div_mul_cancel₀ _ (Nat.cast_ne_zero.mpr (Nat.ne_of_gt hrate))

end Sys2Proof.Machine
end

section
/-! PROOFS. The reset state, that RST answers it whatever the registers held, and what a tick that falls due does: the
obligations of 70_reset_and_hazards.md. -/

namespace Sys2Proof.Machine

/-! ## Reset (rules R120 and R121) -/

/-- RST replaces the registers by those of reset, and nothing else of the state. -/
theorem exec_rst (s : State) : exec .rst s = .next (s.setBlock .reset) := by
  obtain ⟨t, ht⟩ := exec_eq_next .rst s
  rw [ht, exec_rst_next ht]

/-- Settles O13: the registers of reset are the eight values of the rule, the increment among them. -/
theorem rstPutsEveryRegisterInItsResetValue : Obligations.RstPutsEveryRegisterInItsResetValue := ⟨exec_rst, rfl⟩

/-- Settles O14, by reading the one reset state through its ports. -/
theorem resetStateIsSeenFromOutside : Obligations.ResetStateIsSeenFromOutside := by
  unfold Obligations.ResetStateIsSeenFromOutside
  decide

/-! ## Tick overrun (rule R128) -/

/-- With none of its ticks pending the trigger presents the tick, whatever its policy. -/
theorem State.tickFallsDue_of_ticks_eq_zero (o : TickOverrun) {s : State} (h : s.env.ticks = 0) :
    s.tickFallsDue o = s.arrive .triggerTicks :=
  (s.tickFallsDue_cases o).resolve_right fun hlate => hlate.1 h

/-- Behind a pending tick the policy decides: only `delay` presents the tick. -/
theorem State.tickFallsDue_of_ticks_ne_zero (o : TickOverrun) {s : State} (h : s.env.ticks ≠ 0) :
    s.tickFallsDue o = if o = .delay then s.arrive .triggerTicks else s := by
  have hready : s.env.ready .trigger = true := bne_iff_ne.mpr h
  cases o <;> exact congrArg s.setEnv (if_pos hready)

/-- A presented tick is a move of an agent, and a tick not presented leaves the state as it was. -/
theorem Reachable.tickFallsDue (o : TickOverrun) {s : State} (h : Reachable s) : Reachable (s.tickFallsDue o) := by
  obtain hmove | ⟨-, hsame⟩ := s.tickFallsDue_cases o
  · rw [hmove]
    exact h.afterMove _
  · rwa [hsame]

/-- Settles O57: a tick that falls due replaces what the trigger presents alone, by the two cases of a tick pending or not. -/
theorem tickOverrunReachesTheBlockOnlyByTicks : Obligations.TickOverrunReachesTheBlockOnlyByTicks := fun o _ =>
  ⟨State.setEnv_block _ _, State.setEnv_sink _ _, State.setEnv_trace _ _, State.tickFallsDue_of_ticks_eq_zero o,
    State.tickFallsDue_of_ticks_ne_zero o, Reachable.tickFallsDue o⟩

end Sys2Proof.Machine
end
